-- ==== Sys2Proof/Word.lean ====
section
/-! DEFINITION. The machine's two word types (spec/00_scope.md R4, R10): 8-bit data, 16-bit addresses.
Arithmetic on them is the wrapping arithmetic of bit vectors (00_scope.md R9). -/

namespace Sys2Proof

/-- An 8-bit value: a data register, a memory byte, a port byte, a port number (00_scope.md R4). -/
abbrev Byte := BitVec 8

/-- A 16-bit value: SP, PC, a register pair, an address (00_scope.md R4). -/
abbrev Word := BitVec 16

end Sys2Proof
end

