-- ==== Sys2Proof/Machine/Bits.lean ====
section
/-! DEFINITION. Splitting and joining words (spec/00_scope.md R10). -/

namespace Sys2Proof.Machine

/-- `hi8(w) = w[15:8]` (00_scope.md R10). -/
def hi8 (w : Word) : Byte := w.extractLsb' 8 8

/-- `lo8(w) = w[7:0]` (00_scope.md R10). -/
def lo8 (w : Word) : Byte := w.extractLsb' 0 8

/-- `{hi, lo} = (hi << 8) | lo` (00_scope.md R10). -/
def pair (hi lo : Byte) : Word := hi ++ lo

/-- `v[3:0]` as a number (00_scope.md R10). -/
def lowNibble (v : Byte) : Nat := v.toNat % 16

/-- `v[7:4]` as a number (00_scope.md R10). -/
def highNibble (v : Byte) : Nat := v.toNat / 16

end Sys2Proof.Machine
end

