-- ==== Sys2Proof/Syntax.lean ====
section
/-! DEFINITION. The abstract syntax: one constructor of `Instr` per row of spec/opcode_table.json, in the table's
order (spec/30_encoding.md R96), and the moves of the host (spec/45_io.md R228, spec/60_exceptions.md R248). -/

namespace Sys2Proof

/-- The 60 instructions (30_encoding.md R96). An operand is exactly as wide as the encoding's field: `d8` and a port
number 8 bits, `d16` and `adr` 16 bits (R91, R92). `inp` is the table's IN. -/
inductive Instr where
  | nop                 -- NOP (0x00, 41_control.md R153)
  | lxiB (d16 : Word)   -- LXI B,d16 (0x01, 42_load_store.md R170)
  | dcrB                -- DCR B (0x05, 43_arith_logic.md R190)
  | mviB (d8 : Byte)    -- MVI B,d8 (0x06, 42_load_store.md R175)
  | dadB                -- DAD B (0x09, 43_arith_logic.md R192)
  | dcrC                -- DCR C (0x0D, 43_arith_logic.md R190)
  | mviC (d8 : Byte)    -- MVI C,d8 (0x0E, 42_load_store.md R175)
  | rrc                 -- RRC (0x0F, 43_arith_logic.md R194)
  | lxiD (d16 : Word)   -- LXI D,d16 (0x11, 42_load_store.md R170)
  | inxD                -- INX D (0x13, 43_arith_logic.md R191)
  | dadD                -- DAD D (0x19, 43_arith_logic.md R192)
  | ldaxD               -- LDAX D (0x1A, 42_load_store.md R174)
  | lxiH (d16 : Word)   -- LXI H,d16 (0x21, 42_load_store.md R170)
  | inxH                -- INX H (0x23, 43_arith_logic.md R191)
  | mviH (d8 : Byte)    -- MVI H,d8 (0x26, 42_load_store.md R175)
  | daa                 -- DAA (0x27, 43_arith_logic.md R193)
  | dadH                -- DAD H (0x29, 43_arith_logic.md R192)
  | lxiSP (d16 : Word)  -- LXI SP,d16 (0x31, 42_load_store.md R171)
  | sta (adr : Word)    -- STA adr (0x32, 42_load_store.md R173)
  | mviM (d8 : Byte)    -- MVI M,d8 (0x36, 42_load_store.md R176)
  | lda (adr : Word)    -- LDA adr (0x3A, 42_load_store.md R172)
  | dcrA                -- DCR A (0x3D, 43_arith_logic.md R190)
  | mviA (d8 : Byte)    -- MVI A,d8 (0x3E, 42_load_store.md R175)
  | movDM               -- MOV D,M (0x56, 42_load_store.md R178)
  | movEM               -- MOV E,M (0x5E, 42_load_store.md R178)
  | movHM               -- MOV H,M (0x66, 42_load_store.md R178)
  | movLA               -- MOV L,A (0x6F, 42_load_store.md R177)
  | movMA               -- MOV M,A (0x77, 42_load_store.md R179)
  | movAD               -- MOV A,D (0x7A, 42_load_store.md R177)
  | movAE               -- MOV A,E (0x7B, 42_load_store.md R177)
  | movAH               -- MOV A,H (0x7C, 42_load_store.md R177)
  | movAL               -- MOV A,L (0x7D, 42_load_store.md R177)
  | movAM               -- MOV A,M (0x7E, 42_load_store.md R178)
  | anaA                -- ANA A (0xA7, 43_arith_logic.md R195)
  | xraA                -- XRA A (0xAF, 43_arith_logic.md R196)
  | rnz                 -- RNZ (0xC0, 41_control.md R161)
  | popB                -- POP B (0xC1, 44_stack.md R212)
  | jnz (adr : Word)    -- JNZ adr (0xC2, 41_control.md R155)
  | jmp (adr : Word)    -- JMP adr (0xC3, 41_control.md R154)
  | pushB               -- PUSH B (0xC5, 44_stack.md R210)
  | adi (d8 : Byte)     -- ADI d8 (0xC6, 43_arith_logic.md R197)
  | rz                  -- RZ (0xC8, 41_control.md R162)
  | ret                 -- RET (0xC9, 41_control.md R160)
  | jz (adr : Word)     -- JZ adr (0xCA, 41_control.md R156)
  | call (adr : Word)   -- CALL adr (0xCD, 41_control.md R159)
  | popD                -- POP D (0xD1, 44_stack.md R212)
  | jnc (adr : Word)    -- JNC adr (0xD2, 41_control.md R157)
  | out (port : Byte)   -- OUT d8 (0xD3, 45_io.md R223)
  | pushD               -- PUSH D (0xD5, 44_stack.md R210)
  | jc (adr : Word)     -- JC adr (0xDA, 41_control.md R158)
  | inp (port : Byte)   -- IN d8 (0xDB, 45_io.md R230)
  | popH                -- POP H (0xE1, 44_stack.md R212)
  | pushH               -- PUSH H (0xE5, 44_stack.md R210)
  | ani (d8 : Byte)     -- ANI d8 (0xE6, 43_arith_logic.md R198)
  | xchg                -- XCHG (0xEB, 44_stack.md R214)
  | popPSW              -- POP PSW (0xF1, 44_stack.md R213)
  | di                  -- DI (0xF3, 41_control.md R165)
  | pushPSW             -- PUSH PSW (0xF5, 44_stack.md R211)
  | ei                  -- EI (0xFB, 41_control.md R164)
  | cpi (d8 : Byte)     -- CPI d8 (0xFE, 43_arith_logic.md R199)
  deriving DecidableEq, Repr

/-- What the host may do to the state at an instruction boundary (00_scope.md R5, 45_io.md R228). Reading memory and
stopping change nothing and need no move. Arguments outside the interface are refused, see `HostMove.wellFormed`. -/
inductive HostMove where
  | interrupt (vector : Byte)                -- inject_interrupt(vector), 60_exceptions.md R248
  | setInputPort (index : Nat) (value : Byte)   -- set_input_port, 45_io.md R228
  | orInputBit (index : Nat) (mask : Byte)      -- or_input_bit, 45_io.md R228
  | clearInputBit (index : Nat) (mask : Byte)   -- clear_input_bit, 45_io.md R228
  deriving DecidableEq, Repr

/-- Who moves next at an instruction boundary: the core executes one instruction, or the host makes one move
(00_scope.md R5: two agents act on the state). DESIGN CHOICE, log 2. -/
inductive Turn where
  | core
  | host (move : HostMove)
  deriving DecidableEq, Repr

end Sys2Proof
end

