-- ==== Sys2Proof/Machine/State.lean ====
section
/-! DEFINITION. The machine's state (spec/10_state.md R20 to R41), its value after reset (R39), and why a step can
stop. State is plain data; every register has a reset value in the spec. -/

namespace Sys2Proof.Machine

/-- The memory as its non-zero bytes in rising address order (10_state.md R37; the form is `Memory.wf`). Log 10. -/
abbrev Memory := List Host.Cell

/-- The five flag bits, each independent of the others (10_state.md R27). -/
@[ext]
structure Flags where
  z  : Bool   -- zero
  s  : Bool   -- sign
  p  : Bool   -- even parity
  cy : Bool   -- carry, borrow
  ac : Bool   -- auxiliary carry
  deriving DecidableEq, Repr

/-- The fault status: not faulted, or the opcode's address and byte (10_state.md R40). -/
inductive FaultStatus where
  | no
  | yes (pc : Word) (op : Byte)
  deriving DecidableEq, Repr

/-- One output event `sound(port, value)` of OUT 3 or OUT 5 (45_io.md R227). -/
structure SoundEvent where
  port  : Byte
  value : Byte
  deriving DecidableEq, Repr

/-- Everything the spec gives the machine, and two fields of the model's own, `schedule` and `sound`. -/
@[ext]
structure State where
  a : Byte                    -- 10_state.md R20, R21
  b : Byte                    -- R20
  c : Byte                    -- R20
  d : Byte                    -- R20
  e : Byte                    -- R20
  h : Byte                    -- R20
  l : Byte                    -- R20
  flags : Flags               -- R27
  sp : Word                   -- R25
  pc : Word                   -- R26
  ie : Bool                   -- R32
  mem : Memory                -- R37
  ports : Vector Byte 9       -- R34
  shiftLo : Byte              -- R33
  shiftHi : Byte              -- R33
  shiftOffset : BitVec 3      -- R33
  faulted : FaultStatus       -- R40
  schedule : List Turn        -- the model's own: the turns still to come, then the core's for ever; log 2
  sound : List SoundEvent     -- the model's own: the output events so far, oldest first (45_io.md R227); log 3
  deriving DecidableEq, Repr

/-- The state after reset, before a ROM image is loaded: all zero but IE = 1 (10_state.md R39, 70_reset_and_hazards.md
R270). The empty schedule and the empty sound trace are the model's own (DESIGN CHOICE, log 2 and log 3). -/
def State.reset : State where
  a := 0x00#8
  b := 0x00#8
  c := 0x00#8
  d := 0x00#8
  e := 0x00#8
  h := 0x00#8
  l := 0x00#8
  flags := ⟨false, false, false, false, false⟩
  sp := 0x0000#16
  pc := 0x0000#16
  ie := true
  mem := []
  ports := Vector.replicate 9 0x00#8
  shiftLo := 0x00#8
  shiftHi := 0x00#8
  shiftOffset := 0#3
  faulted := .no
  schedule := []
  sound := []

/-- Why the machine stops with a fault. -/
inductive Fault where
  /-- Raised by `step` when the opcode fetched is none of the 60 (60_exceptions.md R241): the address of the opcode
  byte, the byte, and the state the fault leaves. Safe: the spec gives no step after it. -/
  | unimplementedOpcode (pc : Word) (op : Byte) (after : State)
  /-- Raised by `step` on a core that is faulted already: "no step is taken" until reset (10_state.md R40). Safe. -/
  | coreFaulted (pc : Word) (op : Byte)
  deriving DecidableEq, Repr

/-- Why the machine refuses a move. -/
inductive Refusal where
  /-- Raised by `exec` for an instruction without a meaning yet; no arm of `exec` raises it. Safe. -/
  | notModelled (mnemonic : String)
  /-- Raised by `injectInterrupt` for a vector that is no multiple of 8 in 0x00..0x38: "not a move the host has"
  (60_exceptions.md R247, D14). Safe. -/
  | interruptVector (vector : Byte)
  /-- Raised by the host's port writes for an index above 8 (45_io.md R228, D23). Safe. -/
  | portIndex (index : Nat)
  /-- Raised by `loadRom` for an image of more than 65,536 bytes: `RomTooLarge` (60_exceptions.md R242). Safe. -/
  | romTooLarge (length : Nat)
  deriving DecidableEq, Repr

/-- The outcome of a step, a meaning or a host move. -/
abbrev Result := Host.Outcome State Fault Refusal

end Sys2Proof.Machine
end

