-- ==== Sys2Proof/Machine/Flags.lean ====
section
/-! DEFINITION. The flag computations (spec/10_state.md R27 to R30, spec/40_alu_primitives.md R120, R121) and the
conditions of the conditional instructions (spec/41_control.md R152). -/

namespace Sys2Proof.Machine

/-- 1 when `v` holds an even number of 1-bits (40_alu_primitives.md R120). -/
def parity8 (v : Byte) : Bool :=
  !(v.getLsbD 0 ^^ v.getLsbD 1 ^^ v.getLsbD 2 ^^ v.getLsbD 3 ^^ v.getLsbD 4 ^^ v.getLsbD 5 ^^ v.getLsbD 6 ^^ v.getLsbD 7)

/-- `SetZSP(v)`: Z, S and P from `v`, CY and AC kept (40_alu_primitives.md R121). -/
def Flags.setZSP (f : Flags) (v : Byte) : Flags :=
  { f with z := v == 0x00#8, s := v.getLsbD 7, p := parity8 v }

/-- Carry out of bit 7 of an unbounded sum of bytes (10_state.md R28). -/
def carry (sum : Nat) : Bool := decide (255 < sum)

/-- Carry out of bit 3 of `a + v + cin` (10_state.md R28, D4). -/
def auxCarry (a v : Byte) (cin : Bool) : Bool := decide (15 < lowNibble a + lowNibble v + cin.toNat)

/-- A flag as a byte, 0 or 1 (00_scope.md R10). -/
def bit8 (b : Bool) : Byte := if b then 0x01#8 else 0x00#8

/-- The packed flag byte: bit 0 Z, 1 S, 2 P, 3 CY, 4 AC, bits 7:5 zero (10_state.md R29, D2). -/
def packFlags (f : Flags) : Byte :=
  (bit8 f.ac <<< 4) ||| (bit8 f.cy <<< 3) ||| (bit8 f.p <<< 2) ||| (bit8 f.s <<< 1) ||| bit8 f.z

/-- The flags of a popped byte; its bits 7:5 are ignored (10_state.md R30, D3). -/
def unpackFlags (v : Byte) : Flags :=
  ⟨v.getLsbD 0, v.getLsbD 1, v.getLsbD 2, v.getLsbD 3, v.getLsbD 4⟩

/-- The four conditions (41_control.md R152). -/
inductive Cond where
  | nz | z | nc | c
  deriving DecidableEq, Repr

/-- When a condition holds (41_control.md R152). -/
def condHolds (f : Flags) : Cond → Bool
  | .nz => !f.z
  | .z => f.z
  | .nc => !f.cy
  | .c => f.cy

end Sys2Proof.Machine
end

