-- ==== Sys2Proof/Config.lean ====
section
/-! DEFINITION. What the spec fixes for the machine, and the two parameters it leaves OPEN (spec/00_scope.md R4).
An OPEN parameter is a constant with no body: no proof can see its value, so a statement holds for every value. -/

namespace Sys2Proof

/-- The number of memory bytes (00_scope.md R4: exactly 65,536). -/
abbrev Config.memorySize : Nat := 65536

/-- `IN0_CONST`, the byte `IN 0` returns: OPEN (00_scope.md R4, 45_io.md R222, D12). Log 4. Safe: it stays free. -/
opaque Config.in0Const : Byte

/-- `CYCLES`, the cycle count a completed step returns, by opcode byte: OPEN (00_scope.md R4,
70_reset_and_hazards.md R280, D21). No rule of the state reads it (R282). Log 5. Safe: it stays free. -/
opaque Config.cycles : Byte → Byte

end Sys2Proof
end

