-- ==== Sys2Proof/Machine/Ops.lean ====
section
/-! DEFINITION. The named operations over memory, stack and program counter, interrupt entry and return, and the one
synchronous exception (spec/20_memory.md R62 to R66, spec/41_control.md R150, R151, spec/60_exceptions.md R241, R250). -/

namespace Sys2Proof.Machine

/-- `MemRead(addr, 1)` (20_memory.md R62). -/
def State.readByte (s : State) (addr : Word) : Byte := s.mem.read addr.toNat

/-- `MemWrite(addr, 1, v)` (20_memory.md R63). -/
def State.writeByte (s : State) (addr : Word) (v : Byte) : State := { s with mem := s.mem.write addr.toNat v }

/-- `MemRead(addr, 2)`, little-endian, the second address modulo 2^16 (20_memory.md R64, R66). -/
def State.readWord (s : State) (addr : Word) : Word := pair (s.readByte (addr + 1#16)) (s.readByte addr)

/-- `MemWrite(addr, 2, w)`, little-endian (20_memory.md R65). No instruction uses it. -/
def State.writeWord (s : State) (addr w : Word) : State :=
  (s.writeByte addr (lo8 w)).writeByte (addr + 1#16) (hi8 w)

/-- `Push16(w)`: high byte at SP-1, then low byte at SP-2, then SP -= 2 (41_control.md R150; the order R79). -/
def State.push16 (s : State) (w : Word) : State :=
  let t := (s.writeByte (s.sp - 1#16) (hi8 w)).writeByte (s.sp - 2#16) (lo8 w)
  { t with sp := s.sp - 2#16 }

/-- `Pop16()`: low byte from SP, high byte from SP+1, then SP += 2 (41_control.md R151). -/
def State.pop16 (s : State) : Word × State :=
  (pair (s.readByte (s.sp + 1#16)) (s.readByte s.sp), { s with sp := s.sp + 2#16 })

/-- `Fetch8()` (30_encoding.md R92). -/
def State.fetch8 (s : State) : Byte × State := (s.readByte s.pc, { s with pc := s.pc + 1#16 })

/-- `Fetch16()`: low byte first (30_encoding.md R92). -/
def State.fetch16 (s : State) : Word × State :=
  let (lo, s1) := s.fetch8
  let (hi, s2) := s1.fetch8
  (pair hi lo, s2)

/-- The address of an interrupt vector: `{0x00, v}` (60_exceptions.md R250). -/
def vectorAddress (v : Byte) : Word := pair 0x00#8 v

/-- Interrupt entry: Push16(PC), PC <- vector, IE <- 0 (60_exceptions.md R250). -/
def State.enterInterrupt (s : State) (v : Byte) : State :=
  { s.push16 s.pc with pc := vectorAddress v, ie := false }

/-- Return: PC <- Pop16(). The one return there is, from a call and from an interrupt alike; IE is kept
(41_control.md R160, 60_exceptions.md R252). -/
def State.returnFromStack (s : State) : State :=
  let (w, t) := s.pop16
  { t with pc := w }

/-- The state `UnimplementedOpcode(pc, op)` leaves, raised on a state whose PC is the opcode's address: PC past the
opcode byte, the fault status set, all else as before (60_exceptions.md R241, D15). Log 11. -/
def State.afterUnimplemented (s : State) (op : Byte) : State :=
  { s with pc := s.pc + 1#16, faulted := .yes s.pc op }

/-- `raise UnimplementedOpcode(pc, op)` (60_exceptions.md R241). -/
def raiseUnimplemented (s : State) (op : Byte) : Result :=
  .fault (.unimplementedOpcode s.pc op (s.afterUnimplemented op))

end Sys2Proof.Machine
end

