-- ==== Sys2Proof/Machine/Operands.lean ====
section
/-! DEFINITION. The operand forms: single registers and M, register pairs, stack pairs (spec/10_state.md R22 to R24,
spec/42_load_store.md "Addressing modes"). -/

namespace Sys2Proof.Machine

/-- What a 3-bit register code names; `m` is the memory byte at HL (10_state.md R22). -/
inductive Reg where
  | b | c | d | e | h | l | m | a
  deriving DecidableEq, Repr

/-- The register codes (10_state.md R22). -/
def Reg.code : Reg → BitVec 3
  | .b => 0#3
  | .c => 1#3
  | .d => 2#3
  | .e => 3#3
  | .h => 4#3
  | .l => 5#3
  | .m => 6#3
  | .a => 7#3

/-- What a pair code names for LXI, DAD and INX (10_state.md R24). -/
inductive Pair where
  | bc | de | hl | sp
  deriving DecidableEq, Repr

/-- What a pair code names for PUSH and POP (10_state.md R24). -/
inductive StackPair where
  | bc | de | hl | psw
  deriving DecidableEq, Repr

/-- The pair codes of LXI, DAD and INX (10_state.md R24). -/
def Pair.code : Pair → BitVec 2
  | .bc => 0#2
  | .de => 1#2
  | .hl => 2#2
  | .sp => 3#2

/-- The pair codes of PUSH and POP (10_state.md R24). -/
def StackPair.code : StackPair → BitVec 2
  | .bc => 0#2
  | .de => 1#2
  | .hl => 2#2
  | .psw => 3#2

/-- `BC = {B, C}` (10_state.md R23). -/
def State.bc (s : State) : Word := pair s.b s.c

/-- `DE = {D, E}` (10_state.md R23). -/
def State.de (s : State) : Word := pair s.d s.e

/-- `HL = {H, L}` (10_state.md R23). -/
def State.hl (s : State) : Word := pair s.h s.l

/-- `PSW = {A, F}` (10_state.md R29). -/
def State.psw (s : State) : Word := pair s.a (packFlags s.flags)

/-- Reading `r[c]` (10_state.md R22). -/
def State.readReg (s : State) : Reg → Byte
  | .b => s.b
  | .c => s.c
  | .d => s.d
  | .e => s.e
  | .h => s.h
  | .l => s.l
  | .m => s.readByte s.hl
  | .a => s.a

/-- `r[c] <- v` (10_state.md R22). -/
def State.writeReg (s : State) (r : Reg) (v : Byte) : State :=
  match r with
  | .b => { s with b := v }
  | .c => { s with c := v }
  | .d => { s with d := v }
  | .e => { s with e := v }
  | .h => { s with h := v }
  | .l => { s with l := v }
  | .m => s.writeByte s.hl v
  | .a => { s with a := v }

/-- Reading a pair (10_state.md R23, R24). -/
def State.readPair (s : State) : Pair → Word
  | .bc => s.bc
  | .de => s.de
  | .hl => s.hl
  | .sp => s.sp

/-- Writing a pair: the high byte goes to the first-named register (10_state.md R23, R24). -/
def State.writePair (s : State) (p : Pair) (w : Word) : State :=
  match p with
  | .bc => { s with b := hi8 w, c := lo8 w }
  | .de => { s with d := hi8 w, e := lo8 w }
  | .hl => { s with h := hi8 w, l := lo8 w }
  | .sp => { s with sp := w }

/-- What PUSH pushes (44_stack.md R210, R211). -/
def State.readStackPair (s : State) : StackPair → Word
  | .bc => s.bc
  | .de => s.de
  | .hl => s.hl
  | .psw => s.psw

/-- Where POP puts a popped word; for PSW the high byte goes to A, the low byte to the flags (44_stack.md R212, R213). -/
def State.writeStackPair (s : State) (p : StackPair) (w : Word) : State :=
  match p with
  | .bc => s.writePair .bc w
  | .de => s.writePair .de w
  | .hl => s.writePair .hl w
  | .psw => { s with a := hi8 w, flags := unpackFlags (lo8 w) }

end Sys2Proof.Machine
end

