-- ==== Sys2Proof/Machine/Alu.lean ====
section
/-! DEFINITION. The ALU primitives (spec/40_alu_primitives.md R122 to R138), those no opcode reaches among them (R139).
The first operand of every 8-bit primitive is A (10_state.md R21). -/

namespace Sys2Proof.Machine

/-- `ADD(A, v, cin)` (40_alu_primitives.md R122, AC by D4). -/
def State.aluAdd (s : State) (v : Byte) (cin : Bool) : State :=
  let sum := s.a.toNat + v.toNat + cin.toNat
  let res := BitVec.ofNat 8 sum
  { s with a := res, flags := { s.flags.setZSP res with cy := carry sum, ac := auxCarry s.a v cin } }

/-- `SUB(A, v, cin)`: the addition of the complement, then CY inverted; AC is not (40_alu_primitives.md R123, D4).
No opcode reaches it. -/
def State.aluSub (s : State) (v : Byte) (cin : Bool) : State :=
  let t := s.aluAdd (~~~v) (!cin)
  { t with flags := { t.flags with cy := !t.flags.cy } }

/-- `INR(r)`: CY and AC kept (40_alu_primitives.md R124, D6). No opcode reaches it. -/
def State.aluInr (s : State) (r : Reg) : State :=
  let v := s.readReg r + 1#8
  { s.writeReg r v with flags := s.flags.setZSP v }

/-- `DCR(r)`: CY and AC kept (40_alu_primitives.md R125, D6). -/
def State.aluDcr (s : State) (r : Reg) : State :=
  let v := s.readReg r - 1#8
  { s.writeReg r v with flags := s.flags.setZSP v }

/-- `DAD(v)`: CY is bit 16 of the sum, the other flags kept (40_alu_primitives.md R126). -/
def State.aluDad (s : State) (v : Word) : State :=
  let sum := s.hl.toNat + v.toNat
  { s.writePair .hl (BitVec.ofNat 16 sum) with flags := { s.flags with cy := decide (65535 < sum) } }

/-- `AND(A, v)`: CY cleared, AC is bit 3 of `a | v` (40_alu_primitives.md R127, D7). Log 8. -/
def State.aluAnd (s : State) (v : Byte) : State :=
  let t := s.a &&& v
  { s with a := t, flags := { s.flags.setZSP t with cy := false, ac := (s.a ||| v).getLsbD 3 } }

/-- `OR(A, v)`: CY and AC cleared (40_alu_primitives.md R128, D7). No opcode reaches it. -/
def State.aluOr (s : State) (v : Byte) : State :=
  let t := s.a ||| v
  { s with a := t, flags := { s.flags.setZSP t with cy := false, ac := false } }

/-- `XOR(A, v)`: CY and AC cleared (40_alu_primitives.md R129, D7). -/
def State.aluXor (s : State) (v : Byte) : State :=
  let t := s.a ^^^ v
  { s with a := t, flags := { s.flags.setZSP t with cy := false, ac := false } }

/-- `CMP(v)`: A - v is discarded, CY is the borrow, A and AC kept (40_alu_primitives.md R130, D5). -/
def State.aluCmp (s : State) (v : Byte) : State :=
  { s with flags := { s.flags.setZSP (s.a - v) with cy := decide (s.a.toNat < v.toNat) } }

/-- `RLC` (40_alu_primitives.md R131). No opcode reaches it. -/
def State.aluRlc (s : State) : State :=
  let out := s.a.getLsbD 7
  { s with a := (s.a <<< 1) ||| bit8 out, flags := { s.flags with cy := out } }

/-- `RRC` (40_alu_primitives.md R132). -/
def State.aluRrc (s : State) : State :=
  let out := s.a.getLsbD 0
  { s with a := (s.a >>> 1) ||| (bit8 out <<< 7), flags := { s.flags with cy := out } }

/-- `RAL`: through CY (40_alu_primitives.md R133). No opcode reaches it. -/
def State.aluRal (s : State) : State :=
  let out := s.a.getLsbD 7
  { s with a := (s.a <<< 1) ||| bit8 s.flags.cy, flags := { s.flags with cy := out } }

/-- `RAR`: through CY (40_alu_primitives.md R134). No opcode reaches it. -/
def State.aluRar (s : State) : State :=
  let out := s.a.getLsbD 0
  { s with a := (s.a >>> 1) ||| (bit8 s.flags.cy <<< 7), flags := { s.flags with cy := out } }

/-- `CMA`: no flag (40_alu_primitives.md R135). No opcode reaches it. -/
def State.aluCma (s : State) : State := { s with a := ~~~s.a }

/-- `CMC` (40_alu_primitives.md R136). No opcode reaches it. -/
def State.aluCmc (s : State) : State := { s with flags := { s.flags with cy := !s.flags.cy } }

/-- `STC` (40_alu_primitives.md R137). No opcode reaches it. -/
def State.aluStc (s : State) : State := { s with flags := { s.flags with cy := true } }

/-- DAA's first adjustment, 8 bits wide (40_alu_primitives.md R138, D8). -/
def daaLow (a : Byte) (ac : Bool) : Byte := if 9 < lowNibble a ∨ ac = true then a + 0x06#8 else a

/-- Whether DAA makes its second adjustment: on the high nibble after the first (40_alu_primitives.md R138, D8). -/
def daaHigh (t : Byte) (cy : Bool) : Bool := decide (9 < highNibble t ∨ cy = true)

/-- `DAA`: CY only ever forced to 1, AC kept (40_alu_primitives.md R138, D8). Log 6. -/
def State.aluDaa (s : State) : State :=
  let t := daaLow s.a s.flags.ac
  let high := daaHigh t s.flags.cy
  let res := if high then t + 0x60#8 else t
  { s with a := res, flags := { s.flags.setZSP res with cy := if high then true else s.flags.cy } }

end Sys2Proof.Machine
end

