-- ==== Sys2Proof/Machine/ArithLogic.lean ====
section
/-! DEFINITION. The arithmetic and logic instructions (spec/43_arith_logic.md R190 to R199), each over its ALU primitive
(spec/40_alu_primitives.md R139). A meaning runs on the state whose PC is already past the instruction's bytes. -/

namespace Sys2Proof.Machine

/-- The 16-bit increment of a pair, no flag (43_arith_logic.md R191). -/
def State.incPair (s : State) (p : Pair) : State := s.writePair p (s.readPair p + 1#16)

/-- DCR B (43_arith_logic.md R190). -/
def execDcrB (s : State) : Result := .next (s.aluDcr .b)

/-- DCR C (43_arith_logic.md R190). -/
def execDcrC (s : State) : Result := .next (s.aluDcr .c)

/-- DCR A (43_arith_logic.md R190). -/
def execDcrA (s : State) : Result := .next (s.aluDcr .a)

/-- INX D (43_arith_logic.md R191). -/
def execInxD (s : State) : Result := .next (s.incPair .de)

/-- INX H (43_arith_logic.md R191). -/
def execInxH (s : State) : Result := .next (s.incPair .hl)

/-- DAD B (43_arith_logic.md R192). -/
def execDadB (s : State) : Result := .next (s.aluDad s.bc)

/-- DAD D (43_arith_logic.md R192). -/
def execDadD (s : State) : Result := .next (s.aluDad s.de)

/-- DAD H (43_arith_logic.md R192). -/
def execDadH (s : State) : Result := .next (s.aluDad s.hl)

/-- DAA (43_arith_logic.md R193). -/
def execDaa (s : State) : Result := .next s.aluDaa

/-- RRC (43_arith_logic.md R194). -/
def execRrc (s : State) : Result := .next s.aluRrc

/-- ANA A (43_arith_logic.md R195). -/
def execAnaA (s : State) : Result := .next (s.aluAnd s.a)

/-- XRA A (43_arith_logic.md R196). -/
def execXraA (s : State) : Result := .next (s.aluXor s.a)

/-- ADI d8: the old CY is not added (43_arith_logic.md R197). -/
def execAdi (d8 : Byte) (s : State) : Result := .next (s.aluAdd d8 false)

/-- ANI d8 (43_arith_logic.md R198). -/
def execAni (d8 : Byte) (s : State) : Result := .next (s.aluAnd d8)

/-- CPI d8 (43_arith_logic.md R199). -/
def execCpi (d8 : Byte) (s : State) : Result := .next (s.aluCmp d8)

end Sys2Proof.Machine
end

