-- ==== Sys2Proof/Machine/Control.lean ====
section
/-! DEFINITION. The control instructions (spec/41_control.md R153 to R165). A meaning runs on the state whose PC is
already past the instruction's bytes (spec/00_scope.md R11, spec/30_encoding.md R93). Log 1. -/

namespace Sys2Proof.Machine

/-- A conditional jump; the immediates are consumed either way (30_encoding.md R99). -/
def State.jumpIf (s : State) (k : Cond) (adr : Word) : State :=
  if condHolds s.flags k then { s with pc := adr } else s

/-- A conditional return; not taken, nothing changes and no stack byte is read (41_control.md R161). -/
def State.returnIf (s : State) (k : Cond) : State := if condHolds s.flags k then s.returnFromStack else s

/-- NOP (41_control.md R153). -/
def execNop (s : State) : Result := .next s

/-- JMP adr (41_control.md R154). -/
def execJmp (adr : Word) (s : State) : Result := .next { s with pc := adr }

/-- JNZ adr (41_control.md R155). -/
def execJnz (adr : Word) (s : State) : Result := .next (s.jumpIf .nz adr)

/-- JZ adr (41_control.md R156). -/
def execJz (adr : Word) (s : State) : Result := .next (s.jumpIf .z adr)

/-- JNC adr (41_control.md R157). -/
def execJnc (adr : Word) (s : State) : Result := .next (s.jumpIf .nc adr)

/-- JC adr (41_control.md R158). -/
def execJc (adr : Word) (s : State) : Result := .next (s.jumpIf .c adr)

/-- CALL adr: pushes the address of the instruction after the CALL (41_control.md R159). -/
def execCall (adr : Word) (s : State) : Result := .next { s.push16 s.pc with pc := adr }

/-- RET (41_control.md R160). -/
def execRet (s : State) : Result := .next s.returnFromStack

/-- RNZ (41_control.md R161). -/
def execRnz (s : State) : Result := .next (s.returnIf .nz)

/-- RZ (41_control.md R162). -/
def execRz (s : State) : Result := .next (s.returnIf .z)

/-- EI, at once (41_control.md R164, D16). -/
def execEi (s : State) : Result := .next { s with ie := true }

/-- DI (41_control.md R165). -/
def execDi (s : State) : Result := .next { s with ie := false }

end Sys2Proof.Machine
end

