-- ==== Sys2Proof/Machine/Io.lean ====
section
/-! DEFINITION. The ports, the shift hardware, and OUT and IN (spec/45_io.md R220 to R231). -/

namespace Sys2Proof.Machine

/-- `port[p] <- v` where there is an entry `port[p]`, and nothing elsewhere (10_state.md R34, 45_io.md R220). -/
def State.writePort (s : State) (p : Nat) (v : Byte) : State :=
  if h : p < 9 then { s with ports := s.ports.set p v h } else s

/-- The window that IN 3 reads: `({shift_hi, shift_lo} >> (8 - shift_offset)) & 0xFF` (45_io.md R226). -/
def shiftWindow (hi lo : Byte) (offset : BitVec 3) : Byte := lo8 (pair hi lo >>> (8 - offset.toNat))

/-- `IoOut(p, v)` (45_io.md R221; D9: ports 2 to 5 are not stored; D10: a port above 8 has no storage, log 7;
D13: ports 3 and 5 are output events, log 3). -/
def State.ioOut (s : State) (p v : Byte) : State :=
  if p = 0x02#8 then { s with shiftOffset := v.setWidth 3 }
  else if p = 0x04#8 then { s with shiftLo := s.shiftHi, shiftHi := v }
  else if p = 0x03#8 ∨ p = 0x05#8 then { s with sound := s.sound ++ [⟨p, v⟩] }
  else s.writePort p.toNat v

/-- `IoIn(p)`; it changes no state (45_io.md R222, D11, D12). -/
def State.ioIn (s : State) (p : Byte) : Byte :=
  if p = 0x00#8 then Config.in0Const
  else if p = 0x01#8 then s.ports[1]
  else if p = 0x02#8 then s.ports[2]
  else if p = 0x03#8 then shiftWindow s.shiftHi s.shiftLo s.shiftOffset
  else 0x00#8

/-- OUT d8 (45_io.md R223). -/
def execOut (port : Byte) (s : State) : Result := .next (s.ioOut port s.a)

/-- IN d8 (45_io.md R230). -/
def execIn (port : Byte) (s : State) : Result := .next { s with a := s.ioIn port }

end Sys2Proof.Machine
end

