-- ==== Sys2Proof/Machine/LoadStore.lean ====
section
/-! DEFINITION. The load and store instructions (spec/42_load_store.md R170 to R179). None writes a flag. A meaning runs
on the state whose PC is already past the instruction's bytes (spec/00_scope.md R11). -/

namespace Sys2Proof.Machine

/-- MOV between registers or M, destination first (42_load_store.md R177 to R179). -/
def State.move (s : State) (dst src : Reg) : State := s.writeReg dst (s.readReg src)

/-- LXI B,d16 (42_load_store.md R170). -/
def execLxiB (d16 : Word) (s : State) : Result := .next (s.writePair .bc d16)

/-- LXI D,d16 (42_load_store.md R170). -/
def execLxiD (d16 : Word) (s : State) : Result := .next (s.writePair .de d16)

/-- LXI H,d16 (42_load_store.md R170). -/
def execLxiH (d16 : Word) (s : State) : Result := .next (s.writePair .hl d16)

/-- LXI SP,d16 (42_load_store.md R171). -/
def execLxiSP (d16 : Word) (s : State) : Result := .next (s.writePair .sp d16)

/-- LDA adr (42_load_store.md R172). -/
def execLda (adr : Word) (s : State) : Result := .next { s with a := s.readByte adr }

/-- STA adr (42_load_store.md R173). -/
def execSta (adr : Word) (s : State) : Result := .next (s.writeByte adr s.a)

/-- LDAX D (42_load_store.md R174). -/
def execLdaxD (s : State) : Result := .next { s with a := s.readByte s.de }

/-- MVI B,d8 (42_load_store.md R175). -/
def execMviB (d8 : Byte) (s : State) : Result := .next (s.writeReg .b d8)

/-- MVI C,d8 (42_load_store.md R175). -/
def execMviC (d8 : Byte) (s : State) : Result := .next (s.writeReg .c d8)

/-- MVI H,d8 (42_load_store.md R175). -/
def execMviH (d8 : Byte) (s : State) : Result := .next (s.writeReg .h d8)

/-- MVI A,d8 (42_load_store.md R175). -/
def execMviA (d8 : Byte) (s : State) : Result := .next (s.writeReg .a d8)

/-- MVI M,d8 (42_load_store.md R176). -/
def execMviM (d8 : Byte) (s : State) : Result := .next (s.writeReg .m d8)

/-- MOV L,A (42_load_store.md R177). -/
def execMovLA (s : State) : Result := .next (s.move .l .a)

/-- MOV A,D (42_load_store.md R177). -/
def execMovAD (s : State) : Result := .next (s.move .a .d)

/-- MOV A,E (42_load_store.md R177). -/
def execMovAE (s : State) : Result := .next (s.move .a .e)

/-- MOV A,H (42_load_store.md R177). -/
def execMovAH (s : State) : Result := .next (s.move .a .h)

/-- MOV A,L (42_load_store.md R177). -/
def execMovAL (s : State) : Result := .next (s.move .a .l)

/-- MOV D,M (42_load_store.md R178). -/
def execMovDM (s : State) : Result := .next (s.move .d .m)

/-- MOV E,M (42_load_store.md R178). -/
def execMovEM (s : State) : Result := .next (s.move .e .m)

/-- MOV H,M: the address is HL as it was before (42_load_store.md R178). -/
def execMovHM (s : State) : Result := .next (s.move .h .m)

/-- MOV A,M (42_load_store.md R178). -/
def execMovAM (s : State) : Result := .next (s.move .a .m)

/-- MOV M,A (42_load_store.md R179). -/
def execMovMA (s : State) : Result := .next (s.move .m .a)

end Sys2Proof.Machine
end

