-- ==== Sys2Proof/Machine/Stack.lean ====
section
/-! DEFINITION. The stack and exchange instructions (spec/44_stack.md R210 to R214). A meaning runs on the state whose PC
is already past the instruction's bytes. -/

namespace Sys2Proof.Machine

/-- `Push16(rp)` (44_stack.md R210, R211). -/
def State.pushPair (s : State) (p : StackPair) : State := s.push16 (s.readStackPair p)

/-- `rp <- Pop16()` (44_stack.md R212, R213). -/
def State.popPair (s : State) (p : StackPair) : State :=
  let (w, t) := s.pop16
  t.writeStackPair p w

/-- PUSH B (44_stack.md R210). -/
def execPushB (s : State) : Result := .next (s.pushPair .bc)

/-- PUSH D (44_stack.md R210). -/
def execPushD (s : State) : Result := .next (s.pushPair .de)

/-- PUSH H (44_stack.md R210). -/
def execPushH (s : State) : Result := .next (s.pushPair .hl)

/-- PUSH PSW (44_stack.md R211). -/
def execPushPSW (s : State) : Result := .next (s.pushPair .psw)

/-- POP B (44_stack.md R212). -/
def execPopB (s : State) : Result := .next (s.popPair .bc)

/-- POP D (44_stack.md R212). -/
def execPopD (s : State) : Result := .next (s.popPair .de)

/-- POP H (44_stack.md R212). -/
def execPopH (s : State) : Result := .next (s.popPair .hl)

/-- POP PSW (44_stack.md R213). -/
def execPopPSW (s : State) : Result := .next (s.popPair .psw)

/-- XCHG (44_stack.md R214). -/
def execXchg (s : State) : Result := .next { s with d := s.h, e := s.l, h := s.d, l := s.e }

end Sys2Proof.Machine
end

