-- ==== Sys2Proof/Machine/Dispatch.lean ====
section
/-! DEFINITION. From an instruction to its meaning: one arm per constructor (spec/30_encoding.md R95, R96). -/

namespace Sys2Proof.Machine

/-- The pseudocode of the instruction's rule, on the state whose PC is past the instruction (30_encoding.md R93). -/
def exec (i : Instr) (s : State) : Host.Outcome State Fault Refusal :=
  match i with
  | .nop => Sys2Proof.Machine.execNop s
  | .lxiB d16 => Sys2Proof.Machine.execLxiB d16 s
  | .dcrB => Sys2Proof.Machine.execDcrB s
  | .mviB d8 => Sys2Proof.Machine.execMviB d8 s
  | .dadB => Sys2Proof.Machine.execDadB s
  | .dcrC => Sys2Proof.Machine.execDcrC s
  | .mviC d8 => Sys2Proof.Machine.execMviC d8 s
  | .rrc => Sys2Proof.Machine.execRrc s
  | .lxiD d16 => Sys2Proof.Machine.execLxiD d16 s
  | .inxD => Sys2Proof.Machine.execInxD s
  | .dadD => Sys2Proof.Machine.execDadD s
  | .ldaxD => Sys2Proof.Machine.execLdaxD s
  | .lxiH d16 => Sys2Proof.Machine.execLxiH d16 s
  | .inxH => Sys2Proof.Machine.execInxH s
  | .mviH d8 => Sys2Proof.Machine.execMviH d8 s
  | .daa => Sys2Proof.Machine.execDaa s
  | .dadH => Sys2Proof.Machine.execDadH s
  | .lxiSP d16 => Sys2Proof.Machine.execLxiSP d16 s
  | .sta adr => Sys2Proof.Machine.execSta adr s
  | .mviM d8 => Sys2Proof.Machine.execMviM d8 s
  | .lda adr => Sys2Proof.Machine.execLda adr s
  | .dcrA => Sys2Proof.Machine.execDcrA s
  | .mviA d8 => Sys2Proof.Machine.execMviA d8 s
  | .movDM => Sys2Proof.Machine.execMovDM s
  | .movEM => Sys2Proof.Machine.execMovEM s
  | .movHM => Sys2Proof.Machine.execMovHM s
  | .movLA => Sys2Proof.Machine.execMovLA s
  | .movMA => Sys2Proof.Machine.execMovMA s
  | .movAD => Sys2Proof.Machine.execMovAD s
  | .movAE => Sys2Proof.Machine.execMovAE s
  | .movAH => Sys2Proof.Machine.execMovAH s
  | .movAL => Sys2Proof.Machine.execMovAL s
  | .movAM => Sys2Proof.Machine.execMovAM s
  | .anaA => Sys2Proof.Machine.execAnaA s
  | .xraA => Sys2Proof.Machine.execXraA s
  | .rnz => Sys2Proof.Machine.execRnz s
  | .popB => Sys2Proof.Machine.execPopB s
  | .jnz adr => Sys2Proof.Machine.execJnz adr s
  | .jmp adr => Sys2Proof.Machine.execJmp adr s
  | .pushB => Sys2Proof.Machine.execPushB s
  | .adi d8 => Sys2Proof.Machine.execAdi d8 s
  | .rz => Sys2Proof.Machine.execRz s
  | .ret => Sys2Proof.Machine.execRet s
  | .jz adr => Sys2Proof.Machine.execJz adr s
  | .call adr => Sys2Proof.Machine.execCall adr s
  | .popD => Sys2Proof.Machine.execPopD s
  | .jnc adr => Sys2Proof.Machine.execJnc adr s
  | .out port => Sys2Proof.Machine.execOut port s
  | .pushD => Sys2Proof.Machine.execPushD s
  | .jc adr => Sys2Proof.Machine.execJc adr s
  | .inp port => Sys2Proof.Machine.execIn port s
  | .popH => Sys2Proof.Machine.execPopH s
  | .pushH => Sys2Proof.Machine.execPushH s
  | .ani d8 => Sys2Proof.Machine.execAni d8 s
  | .xchg => Sys2Proof.Machine.execXchg s
  | .popPSW => Sys2Proof.Machine.execPopPSW s
  | .di => Sys2Proof.Machine.execDi s
  | .pushPSW => Sys2Proof.Machine.execPushPSW s
  | .ei => Sys2Proof.Machine.execEi s
  | .cpi d8 => Sys2Proof.Machine.execCpi d8 s

end Sys2Proof.Machine
end

