-- ==== Sys2Proof/Decode.lean ====
section
/-! DEFINITION. The decoder and, after it, the encoder (spec/30_encoding.md R90 to R100). The decoder dispatches on
the whole opcode byte by a table written as the spec's (R95, R96): every byte the table does not list is rejected. -/

namespace Sys2Proof

/-- The three formats (30_encoding.md R91): no immediate, a `d8`, a 16-bit immediate low byte first. -/
inductive Format where
  | f1 (i : Instr)
  | f2 (make : Byte → Instr)
  | f3 (make : Word → Instr)

/-- Why a byte string is no instruction: its opcode is none of the 60 (30_encoding.md R97), or it ends before the
immediates its opcode asks for (R100; the core never meets this, memory does not end: 20_memory.md R66). -/
inductive DecodeError where
  | unimplemented (op : Byte)
  | truncated
  deriving DecidableEq, Repr

/-- The 12 opcodes of the group Control (30_encoding.md R96). -/
def opcodeTableControl : List (Byte × Format) :=
  [(0x00#8, .f1 .nop), (0xC0#8, .f1 .rnz), (0xC2#8, .f3 Instr.jnz), (0xC3#8, .f3 Instr.jmp),
   (0xC8#8, .f1 .rz), (0xC9#8, .f1 .ret), (0xCA#8, .f3 Instr.jz), (0xCD#8, .f3 Instr.call),
   (0xD2#8, .f3 Instr.jnc), (0xDA#8, .f3 Instr.jc), (0xF3#8, .f1 .di), (0xFB#8, .f1 .ei)]

/-- The 22 opcodes of the group Load/store (30_encoding.md R96). -/
def opcodeTableLoadStore : List (Byte × Format) :=
  [(0x01#8, .f3 Instr.lxiB), (0x06#8, .f2 Instr.mviB), (0x0E#8, .f2 Instr.mviC), (0x11#8, .f3 Instr.lxiD),
   (0x1A#8, .f1 .ldaxD), (0x21#8, .f3 Instr.lxiH), (0x26#8, .f2 Instr.mviH), (0x31#8, .f3 Instr.lxiSP),
   (0x32#8, .f3 Instr.sta), (0x36#8, .f2 Instr.mviM), (0x3A#8, .f3 Instr.lda), (0x3E#8, .f2 Instr.mviA),
   (0x56#8, .f1 .movDM), (0x5E#8, .f1 .movEM), (0x66#8, .f1 .movHM), (0x6F#8, .f1 .movLA),
   (0x77#8, .f1 .movMA), (0x7A#8, .f1 .movAD), (0x7B#8, .f1 .movAE), (0x7C#8, .f1 .movAH),
   (0x7D#8, .f1 .movAL), (0x7E#8, .f1 .movAM)]

/-- The 15 opcodes of the group Arithmetic/logic (30_encoding.md R96). -/
def opcodeTableArithLogic : List (Byte × Format) :=
  [(0x05#8, .f1 .dcrB), (0x09#8, .f1 .dadB), (0x0D#8, .f1 .dcrC), (0x0F#8, .f1 .rrc),
   (0x13#8, .f1 .inxD), (0x19#8, .f1 .dadD), (0x23#8, .f1 .inxH), (0x27#8, .f1 .daa),
   (0x29#8, .f1 .dadH), (0x3D#8, .f1 .dcrA), (0xA7#8, .f1 .anaA), (0xAF#8, .f1 .xraA),
   (0xC6#8, .f2 Instr.adi), (0xE6#8, .f2 Instr.ani), (0xFE#8, .f2 Instr.cpi)]

/-- The 9 opcodes of the group Stack (30_encoding.md R96). -/
def opcodeTableStack : List (Byte × Format) :=
  [(0xC1#8, .f1 .popB), (0xC5#8, .f1 .pushB), (0xD1#8, .f1 .popD), (0xD5#8, .f1 .pushD),
   (0xE1#8, .f1 .popH), (0xE5#8, .f1 .pushH), (0xEB#8, .f1 .xchg), (0xF1#8, .f1 .popPSW),
   (0xF5#8, .f1 .pushPSW)]

/-- The 2 opcodes of the group I/O (30_encoding.md R96). -/
def opcodeTableIo : List (Byte × Format) :=
  [(0xD3#8, .f2 Instr.out), (0xDB#8, .f2 Instr.inp)]

/-- The 60 implemented opcodes (30_encoding.md R96, D1). -/
def opcodeTable : List (Byte × Format) :=
  opcodeTableControl ++ opcodeTableLoadStore ++ opcodeTableArithLogic ++ opcodeTableStack ++ opcodeTableIo

/-- What an opcode byte selects: a row of the table, or nothing, which is the trap of R97 (30_encoding.md R95). -/
def decodeOpcode (op : Byte) : Option Format := opcodeTable.lookup op

/-- The instruction at the head of a byte string, and the bytes after it (30_encoding.md R90, R92, R93). -/
def decode : List Byte → Except DecodeError (Instr × List Byte)
  | [] => .error .truncated
  | op :: rest =>
    match decodeOpcode op with
    | none => .error (.unimplemented op)
    | some (.f1 i) => .ok (i, rest)
    | some (.f2 make) =>
      match rest with
      | d8 :: rest' => .ok (make d8, rest')
      | [] => .error .truncated
    | some (.f3 make) =>
      match rest with
      | lo :: hi :: rest' => .ok (make (Machine.pair hi lo), rest')
      | _ => .error .truncated

/-- The opcode byte of an instruction (30_encoding.md R96). -/
def Instr.opcode : Instr → Byte
  | .nop => 0x00#8
  | .lxiB _ => 0x01#8
  | .dcrB => 0x05#8
  | .mviB _ => 0x06#8
  | .dadB => 0x09#8
  | .dcrC => 0x0D#8
  | .mviC _ => 0x0E#8
  | .rrc => 0x0F#8
  | .lxiD _ => 0x11#8
  | .inxD => 0x13#8
  | .dadD => 0x19#8
  | .ldaxD => 0x1A#8
  | .lxiH _ => 0x21#8
  | .inxH => 0x23#8
  | .mviH _ => 0x26#8
  | .daa => 0x27#8
  | .dadH => 0x29#8
  | .lxiSP _ => 0x31#8
  | .sta _ => 0x32#8
  | .mviM _ => 0x36#8
  | .lda _ => 0x3A#8
  | .dcrA => 0x3D#8
  | .mviA _ => 0x3E#8
  | .movDM => 0x56#8
  | .movEM => 0x5E#8
  | .movHM => 0x66#8
  | .movLA => 0x6F#8
  | .movMA => 0x77#8
  | .movAD => 0x7A#8
  | .movAE => 0x7B#8
  | .movAH => 0x7C#8
  | .movAL => 0x7D#8
  | .movAM => 0x7E#8
  | .anaA => 0xA7#8
  | .xraA => 0xAF#8
  | .rnz => 0xC0#8
  | .popB => 0xC1#8
  | .jnz _ => 0xC2#8
  | .jmp _ => 0xC3#8
  | .pushB => 0xC5#8
  | .adi _ => 0xC6#8
  | .rz => 0xC8#8
  | .ret => 0xC9#8
  | .jz _ => 0xCA#8
  | .call _ => 0xCD#8
  | .popD => 0xD1#8
  | .jnc _ => 0xD2#8
  | .out _ => 0xD3#8
  | .pushD => 0xD5#8
  | .jc _ => 0xDA#8
  | .inp _ => 0xDB#8
  | .popH => 0xE1#8
  | .pushH => 0xE5#8
  | .ani _ => 0xE6#8
  | .xchg => 0xEB#8
  | .popPSW => 0xF1#8
  | .di => 0xF3#8
  | .pushPSW => 0xF5#8
  | .ei => 0xFB#8
  | .cpi _ => 0xFE#8

/-- `d16` and `adr` in the instruction stream: low byte first (30_encoding.md R92). -/
def wordBytes (w : Word) : List Byte := [Machine.lo8 w, Machine.hi8 w]

/-- The immediate bytes of an instruction (30_encoding.md R91, R92). -/
def Instr.immediates : Instr → List Byte
  | .nop => []
  | .lxiB w => wordBytes w
  | .dcrB => []
  | .mviB v => [v]
  | .dadB => []
  | .dcrC => []
  | .mviC v => [v]
  | .rrc => []
  | .lxiD w => wordBytes w
  | .inxD => []
  | .dadD => []
  | .ldaxD => []
  | .lxiH w => wordBytes w
  | .inxH => []
  | .mviH v => [v]
  | .daa => []
  | .dadH => []
  | .lxiSP w => wordBytes w
  | .sta w => wordBytes w
  | .mviM v => [v]
  | .lda w => wordBytes w
  | .dcrA => []
  | .mviA v => [v]
  | .movDM => []
  | .movEM => []
  | .movHM => []
  | .movLA => []
  | .movMA => []
  | .movAD => []
  | .movAE => []
  | .movAH => []
  | .movAL => []
  | .movAM => []
  | .anaA => []
  | .xraA => []
  | .rnz => []
  | .popB => []
  | .jnz w => wordBytes w
  | .jmp w => wordBytes w
  | .pushB => []
  | .adi v => [v]
  | .rz => []
  | .ret => []
  | .jz w => wordBytes w
  | .call w => wordBytes w
  | .popD => []
  | .jnc w => wordBytes w
  | .out v => [v]
  | .pushD => []
  | .jc w => wordBytes w
  | .inp v => [v]
  | .popH => []
  | .pushH => []
  | .ani v => [v]
  | .xchg => []
  | .popPSW => []
  | .di => []
  | .pushPSW => []
  | .ei => []
  | .cpi v => [v]

/-- The bytes of an instruction, first byte at the lowest address (30_encoding.md R91). -/
def encode (i : Instr) : List Byte := i.opcode :: i.immediates

/-- The length of an instruction in bytes: 1, 2 or 3 (30_encoding.md R90). -/
def Instr.size (i : Instr) : Nat := (encode i).length

/-- The three bytes that a number `w` of `nbits` bits lays out, bit 0 the least significant bit of the first byte; the
bits from `nbits` on are zero. Three is the longest instruction (30_encoding.md R90). -/
def tableBytes (nbits w : Nat) : List Byte :=
  let v := w % 2 ^ nbits
  [BitVec.ofNat 8 v, BitVec.ofNat 8 (v / 256), BitVec.ofNat 8 (v / 65536)]

/-- What the decoder reads from an instruction whose bits are `w`, numbered as spec/opcode_table.json numbers them. -/
def decodeTableWord (nbits w : Nat) : Option Instr :=
  match decode (tableBytes nbits w) with
  | .ok (i, _) => some i
  | .error _ => none

end Sys2Proof
end

