-- ==== Sys2Proof/Machine/Fetch.lean ====
section
/-! DEFINITION. Fetching an instruction (spec/30_encoding.md R92, R93), and placing one where the next fetch finds it. -/

namespace Sys2Proof.Machine

/-- The first part of a step: the opcode byte, and its immediates if it is implemented, with PC past every byte
fetched; or the byte that is no opcode (30_encoding.md R93, R100). -/
def State.fetchInstr (s : State) : Except Byte (Instr × State) :=
  let (op, s1) := s.fetch8
  match decodeOpcode op with
  | none => .error op
  | some (.f1 i) => .ok (i, s1)
  | some (.f2 make) =>
    let (d8, s2) := s1.fetch8
    .ok (make d8, s2)
  | some (.f3 make) =>
    let (w, s2) := s1.fetch16
    .ok (make w, s2)

/-- The three bytes at PC, as many as the longest instruction has (30_encoding.md R90). -/
def State.bytesAtPc (s : State) : List Byte := [s.readByte s.pc, s.readByte (s.pc + 1#16), s.readByte (s.pc + 2#16)]

/-- Bytes stored from an address on, modulo 2^16 (20_memory.md R66). -/
def State.writeBytes : State → Word → List Byte → State
  | s, _, [] => s
  | s, a, v :: vs => (s.writeByte a v).writeBytes (a + 1#16) vs

/-- The state with the instruction whose bits are `w` at PC, on a core that is not faulted and whose turn it is.
It stands for a ROM load that put it there, log 12. -/
def State.placeTableWord (s : State) (nbits w : Nat) : State :=
  { s.writeBytes s.pc (tableBytes nbits w) with schedule := [], faulted := .no }

end Sys2Proof.Machine
end

