-- ==== Sys2Proof/Machine/Domain.lean ====
section
/-! DEFINITION. The domains of the host's arguments (spec/60_exceptions.md R247, spec/45_io.md R228,
spec/70_reset_and_hazards.md R271). -/

namespace Sys2Proof.Machine

/-- The eight interrupt vectors 8·n, n in 0..7 (60_exceptions.md R247, D14). -/
def vectorOk (v : Byte) : Bool := v &&& 0xC7#8 == 0x00#8

/-- The nine entries of the port array (10_state.md R34; 45_io.md R228, D23). -/
def portIndexOk (i : Nat) : Bool := i < 9

/-- The length of a ROM image that `load_rom` accepts (70_reset_and_hazards.md R271, D24). -/
def romLengthOk (len : Nat) : Bool := len ≤ Config.memorySize

end Sys2Proof.Machine
end

