-- ==== Sys2Proof/Machine/Interface.lean ====
section
/-! DEFINITION. The host's interface: interrupt requests, port writes, the ROM load, and whose turn it is
(spec/60_exceptions.md R247 to R250, spec/45_io.md R228, spec/70_reset_and_hazards.md R271, spec/00_scope.md R5). -/

namespace Sys2Proof.Machine

/-- A request is accepted exactly when IE = 1 and the core is not faulted (60_exceptions.md R249). -/
def State.acceptsInterrupt (s : State) : Bool := s.ie && s.faulted == .no

/-- `inject_interrupt(v)`: entry, or no change; a vector outside the domain is refused (60_exceptions.md R248 to R250,
D14). -/
def injectInterrupt (v : Byte) (s : State) : Result :=
  if vectorOk v then .next (if s.acceptsInterrupt then s.enterInterrupt v else s)
  else .refused (.interruptVector v)

/-- `set_input_port(i, b)` (45_io.md R228, D23). -/
def setInputPort (i : Nat) (b : Byte) (s : State) : Result :=
  if portIndexOk i then .next (s.writePort i b) else .refused (.portIndex i)

/-- `or_input_bit(i, m)` (45_io.md R228, D23). -/
def orInputBit (i : Nat) (m : Byte) (s : State) : Result :=
  if portIndexOk i then .next (s.writePort i (s.ports.toList.getD i 0x00#8 ||| m)) else .refused (.portIndex i)

/-- `clear_input_bit(i, m)` (45_io.md R228, D23). -/
def clearInputBit (i : Nat) (m : Byte) (s : State) : Result :=
  if portIndexOk i then .next (s.writePort i (s.ports.toList.getD i 0x00#8 &&& ~~~m)) else .refused (.portIndex i)

/-- A move of the host at an instruction boundary (45_io.md R228). -/
def hostMove : HostMove → State → Result
  | .interrupt v, s => injectInterrupt v s
  | .setInputPort i b, s => setInputPort i b s
  | .orInputBit i m, s => orInputBit i m s
  | .clearInputBit i m, s => clearInputBit i m s

/-- Whose turn it is, and the state with that turn taken off the schedule; after the last turn it is the core's for
ever. DESIGN CHOICE, log 2. -/
def State.nextTurn (s : State) : Turn × State :=
  match s.schedule with
  | [] => (.core, s)
  | t :: rest => (t, { s with schedule := rest })

/-- `load_rom(bytes)`: from address 0, at most 65,536 bytes, else rejected with nothing copied
(70_reset_and_hazards.md R271, 60_exceptions.md R242, D24). -/
def loadRom (rom : List Byte) (s : State) : Result :=
  if romLengthOk rom.length then .next { s with mem := s.mem.writeList 0 rom }
  else .refused (.romTooLarge rom.length)

/-- Reset with a ROM image (70_reset_and_hazards.md R270). -/
def boot (rom : List Byte) : Result := loadRom rom State.reset

end Sys2Proof.Machine
end

