-- ==== Sys2Proof/Machine/Step.lean ====
section
/-! DEFINITION. One step of the machine (spec/30_encoding.md R93, spec/00_scope.md R5 to R7). -/

namespace Sys2Proof.Machine

/-- The spec's `step()` on a core that is not faulted: fetch, trap or execute (30_encoding.md R93). -/
def coreStep (s : State) : Host.Outcome State Fault Refusal :=
  match s.fetchInstr with
  | .ok (i, s1) => exec i s1
  | .error op => raiseUnimplemented s op

/-- One step: a faulted core takes none (10_state.md R40); else the next turn of the schedule is taken, an instruction
of the core or a move of the host at the boundary (00_scope.md R5, R6). -/
def step (s : State) : Host.Outcome State Fault Refusal :=
  match s.faulted with
  | .yes pc op => .fault (.coreFaulted pc op)
  | .no =>
    match s.nextTurn with
    | (.core, s1) => coreStep s1
    | (.host move, s1) => hostMove move s1

/-- `s` with the instruction whose bits are `w` where the next step fetches it. -/
def State.withFetchWord (s : State) (nbits w : Nat) : State := s.placeTableWord nbits w

end Sys2Proof.Machine
end

