-- ==== Sys2Proof/Machine/Cycles.lean ====
section
/-! DEFINITION. The cycle count a step returns to the scheduler (spec/00_scope.md R7, spec/70_reset_and_hazards.md R280,
R282, R283). No part of the state reads it. -/

namespace Sys2Proof.Machine

/-- The count a step from `s` returns: `CYCLES[op]` when the core executes an instruction; none when the core is or
becomes faulted (60_exceptions.md R241) and none for a host move (70_reset_and_hazards.md R283). Log 5. -/
def stepCycles (s : State) : Option Byte :=
  match s.faulted with
  | .yes _ _ => none
  | .no =>
    match s.nextTurn with
    | (.host _, _) => none
    | (.core, s1) =>
      match s1.fetchInstr with
      | .ok (i, _) => some (Config.cycles i.opcode)
      | .error _ => none

end Sys2Proof.Machine
end

