-- ==== Sys2Proof/Safety.lean ====
section
/-! DEFINITION. What counts as a safe run, the invariant of the machine, and the vocabulary of the statements, written
from the spec's own tables and not from the machine's definitions. -/

namespace Sys2Proof

open Machine

/-- The core runs `k` steps from `s` and stops in none of them (spec/00_scope.md R7, R8). -/
def SafeFor (k : Nat) (s : State) : Prop := ∃ t, core.run k s = .next t

/-- A state the machine can be in between two steps of a run: the memory in canonical form (spec/10_state.md R37), the
core not faulted (R40), every recorded sound event one of port 3 or port 5 (spec/45_io.md R227). -/
def Inv (s : State) : Prop :=
  s.mem.wf = true ∧ s.faulted = .no ∧ ∀ ev ∈ s.sound, ev.port = 0x03#8 ∨ ev.port = 0x05#8

/-- The next step of `s` is the core's, and `s1` is `s` with that turn taken off the schedule. -/
def CoreTurn (s s1 : State) : Prop := s.faulted = .no ∧ s.nextTurn = (.core, s1)

/-- The next step of `s` is the core's and the bytes at PC are those of `i` (spec/30_encoding.md R93). -/
def AboutToRun (s s1 : State) (i : Instr) : Prop :=
  CoreTurn s s1 ∧ ∃ rest, decode s.bytesAtPc = .ok (i, rest)

/-- The state with PC past the bytes of `i`, on which the meaning of `i` runs (spec/00_scope.md R11). -/
def pastInstr (s : State) (i : Instr) : State := { s with pc := s.pc + BitVec.ofNat 16 i.size }

/-- How many bits of a byte are 1 (spec/40_alu_primitives.md R120). -/
def onesIn (v : Byte) : Nat := ((List.range 8).filter fun k => v.getLsbD k).length

/-- Z, S and P describe `v` (spec/10_state.md R28). -/
def ZspDescribe (f : Flags) (v : Byte) : Prop :=
  (f.z = true ↔ v.toNat = 0) ∧ (f.s = true ↔ 128 ≤ v.toNat) ∧ (f.p = true ↔ onesIn v % 2 = 0)

/-- From `s` to `t` the byte at `addr` became `v` and nothing else changed: no other byte, no register, no flag. -/
def StoresOnly (s t : State) (addr : Word) (v : Byte) : Prop :=
  t.readByte addr = v ∧ (∀ x, x ≠ addr → t.readByte x = s.readByte x) ∧ t = { s with mem := t.mem }

/-- From `s` to `t` the word `w` was pushed: high byte at SP-1, low byte at SP-2, SP two less, no other byte changed
(spec/41_control.md R150). -/
def Pushed (s t : State) (w : Word) : Prop :=
  t.sp = s.sp - 2#16 ∧ (t.readByte (s.sp - 1#16)).toNat = w.toNat / 256 ∧ (t.readByte (s.sp - 2#16)).toNat = w.toNat % 256 ∧
    ∀ x, x ≠ s.sp - 1#16 → x ≠ s.sp - 2#16 → t.readByte x = s.readByte x

/-- A number below 100 in packed BCD. -/
def packedBcd (n : Nat) : Byte := BitVec.ofNat 8 (n / 10 * 16 + n % 10)

/-- The 60 implemented opcodes, in the order of spec/30_encoding.md R96: Control, Load/store, Arithmetic/logic, Stack,
I/O. -/
def implementedOpcodes : List Byte :=
  [0x00, 0xC3, 0xC2, 0xCA, 0xD2, 0xDA, 0xCD, 0xC9, 0xC8, 0xC0, 0xFB, 0xF3] ++
  [0x01, 0x11, 0x21, 0x31, 0x3A, 0x32, 0x1A, 0x06, 0x0E, 0x26, 0x3E, 0x36, 0x56, 0x5E, 0x66, 0x6F, 0x77, 0x7A, 0x7B,
    0x7C, 0x7D, 0x7E] ++
  [0x05, 0x0D, 0x3D, 0x13, 0x09, 0x19, 0x29, 0x23, 0x27, 0x0F, 0xA7, 0xAF, 0xC6, 0xE6, 0xFE] ++
  [0xC1, 0xC5, 0xD1, 0xD5, 0xE1, 0xE5, 0xF1, 0xF5, 0xEB] ++ [0xD3, 0xDB]

/-- The ten two-byte opcodes (spec/30_encoding.md R96). -/
def twoByteOpcodes : List Byte := [0x06, 0x0E, 0x26, 0x3E, 0x36, 0xC6, 0xE6, 0xFE, 0xD3, 0xDB]

/-- The twelve three-byte opcodes (spec/30_encoding.md R96). -/
def threeByteOpcodes : List Byte := [0xC3, 0xC2, 0xCA, 0xD2, 0xDA, 0xCD, 0x01, 0x11, 0x21, 0x31, 0x3A, 0x32]

/-- The rows of the flag table that write Z, S and P (spec/10_state.md R31). -/
def writesZsp : Instr → Bool
  | .adi _ | .cpi _ | .ani _ | .anaA | .xraA | .dcrB | .dcrC | .dcrA | .daa | .popPSW => true
  | _ => false

/-- The rows of the flag table that write CY (spec/10_state.md R31). -/
def writesCy : Instr → Bool
  | .adi _ | .cpi _ | .ani _ | .anaA | .xraA | .dadB | .dadD | .dadH | .rrc | .daa | .popPSW => true
  | _ => false

/-- The rows of the flag table that write AC (spec/10_state.md R31). -/
def writesAc : Instr → Bool
  | .adi _ | .ani _ | .anaA | .xraA | .popPSW => true
  | _ => false

/-- "written by" of A (spec/10_state.md R42). -/
def writesA : Instr → Bool
  | .mviA _ | .movAD | .movAE | .movAH | .movAL | .movAM | .lda _ | .ldaxD | .dcrA | .adi _ | .ani _ | .anaA | .xraA
  | .daa | .rrc | .popPSW | .inp _ => true
  | _ => false

/-- "written by" of B (spec/10_state.md R42). -/
def writesB : Instr → Bool
  | .mviB _ | .dcrB | .lxiB _ | .popB => true
  | _ => false

/-- "written by" of C (spec/10_state.md R42). -/
def writesC : Instr → Bool
  | .mviC _ | .dcrC | .lxiB _ | .popB => true
  | _ => false

/-- "written by" of D (spec/10_state.md R42). -/
def writesD : Instr → Bool
  | .movDM | .lxiD _ | .inxD | .popD | .xchg => true
  | _ => false

/-- "written by" of E (spec/10_state.md R42). -/
def writesE : Instr → Bool
  | .movEM | .lxiD _ | .inxD | .popD | .xchg => true
  | _ => false

/-- "written by" of H (spec/10_state.md R42). -/
def writesH : Instr → Bool
  | .mviH _ | .movHM | .lxiH _ | .inxH | .dadB | .dadD | .dadH | .popH | .xchg => true
  | _ => false

/-- "written by" of L (spec/10_state.md R42). -/
def writesL : Instr → Bool
  | .movLA | .lxiH _ | .inxH | .dadB | .dadD | .dadH | .popH | .xchg => true
  | _ => false

/-- "written by" of SP (spec/10_state.md R42). -/
def writesSp : Instr → Bool
  | .lxiSP _ | .call _ | .ret | .rz | .rnz | .pushB | .pushD | .pushH | .pushPSW | .popB | .popD | .popH | .popPSW =>
    true
  | _ => false

/-- The instructions that overwrite PC, which every step has already moved past the instruction (spec/10_state.md
R42). -/
def transfersControl : Instr → Bool
  | .jmp _ | .jnz _ | .jz _ | .jnc _ | .jc _ | .call _ | .ret | .rz | .rnz => true
  | _ => false

/-- The addresses an instruction stores to, from the state it runs on (spec/20_memory.md R69, column "writes"). -/
def storedAddresses (i : Instr) (s : State) : List Word :=
  match i with
  | .sta adr => [adr]
  | .mviM _ | .movMA => [s.hl]
  | .pushB | .pushD | .pushH | .pushPSW | .call _ => [s.sp - 1#16, s.sp - 2#16]
  | _ => []

end Sys2Proof
end

