-- ==== Sys2Proof/Certificates/Slice0/Obligations.lean ====
section
/-! DEFINITION. The statements for the provers, from the numbered rules of spec/. A meaning (`exec`) runs on the state
whose PC is already past the instruction's bytes; `StepRunsDecodedInstruction` carries it to `step`. In an equation
`exec i s = .next { s with … }` everything not named is unchanged: every register, flag, port and byte of memory. -/

open Sys2Proof Sys2Proof.Machine

/-! ### Encoding -/

/-- Decoding the bytes of an instruction gives the instruction back, every operand at every value, whatever follows
(30_encoding.md sections 1, 2 and 5). -/
def Obligations.DecodeEncodeInverse : Prop :=
  ∀ (i : Instr) (rest : List Byte), decode (encode i ++ rest) = .ok (i, rest)

/-- What decodes is the encoding of what it decodes to, so no two byte strings are one instruction (30_encoding.md
sections 2 and 5). -/
def Obligations.EncodeDecodeInverse : Prop :=
  ∀ (bytes : List Byte) (i : Instr) (rest : List Byte), decode bytes = .ok (i, rest) → bytes = encode i ++ rest

/-- The opcodes the decoder accepts are exactly the 60 of R96: each of them selects an instruction, each other byte is
rejected by name; the opcode byte alone decides the length: 3 for twelve opcodes, 2 for ten, 1 for the others
(30_encoding.md sections 1, 5 and 6; that the list is the whole set is decision D1). -/
def Obligations.DecoderAcceptsExactlySixty : Prop :=
  implementedOpcodes.length = 60 ∧
  (∀ (op : Byte) (b1 b2 : Byte) (rest : List Byte),
    (op ∈ implementedOpcodes → ∃ i after, decode (op :: b1 :: b2 :: rest) = .ok (i, after) ∧ i.opcode = op) ∧
    (op ∉ implementedOpcodes → decode (op :: rest) = .error (.unimplemented op))) ∧
  (∀ i : Instr, i.opcode ∈ implementedOpcodes ∧
    i.size = if i.opcode ∈ threeByteOpcodes then 3 else if i.opcode ∈ twoByteOpcodes then 2 else 1)

/-- Words written out from the spec, one of each family and each format, decode to what they stand for (30_encoding.md
section 5, 95_test_vectors.md S1 to S5, S9, V12 and V13; a sanity check). That 0xC5 is PUSH B and 0xC1 is POP B is the
spec's general knowledge G4 (conflict C4, log 14). -/
def Obligations.SpecWordsDecode : Prop :=
  decode [0x31, 0x00, 0x24] = .ok (.lxiSP 0x2400, []) ∧ decode [0x3E, 0x42] = .ok (.mviA 0x42, []) ∧
  decode [0x32, 0x00, 0x20] = .ok (.sta 0x2000, []) ∧ decode [0xCD, 0x10, 0x00] = .ok (.call 0x0010, []) ∧
  decode [0xC9] = .ok (.ret, []) ∧ decode [0xC2, 0x34, 0x12] = .ok (.jnz 0x1234, []) ∧
  decode [0xC6, 0x20] = .ok (.adi 0x20, []) ∧ decode [0xD3, 0x04] = .ok (.out 0x04, []) ∧
  decode [0xC5] = .ok (.pushB, []) ∧ decode [0xC1] = .ok (.popB, []) ∧ decode [0x76] = .error (.unimplemented 0x76)

/-! ### The step -/

/-- When the bytes at PC decode to `i` and it is the core's turn, the step is `exec i` on the state whose PC is past the
bytes of `i`, and the cycle count it returns is that opcode's (30_encoding.md section 3, 70_reset_and_hazards.md
section 4; the turn is the model's, log 2). -/
def Obligations.StepRunsDecodedInstruction : Prop :=
  ∀ (s s1 : State) (i : Instr), AboutToRun s s1 i →
    step s = exec i (pastInstr s1 i) ∧ stepCycles s = some (Config.cycles i.opcode) ∧
    s1 = { s with schedule := s.schedule.tail }

/-- A turn of the host on a core that is not faulted is the host's move at the boundary and returns no cycle count
(00_scope.md section 5, 45_io.md section 3, 70_reset_and_hazards.md section 4; the schedule is the model's, log 2). -/
def Obligations.StepTakesHostTurn : Prop :=
  ∀ (s : State) (m : HostMove) (rest : List Turn), s.faulted = .no → s.schedule = .host m :: rest →
    step s = hostMove m { s with schedule := rest } ∧ stepCycles s = none

/-- Fetching as an opcode any byte that is not one of the 60 raises UnimplementedOpcode, whatever follows it; fetching
one of the 60 never does; there are 196 such bytes (30_encoding.md R97). -/
def Obligations.UnlistedOpcodeTraps : Prop :=
  (∀ s s1 : State, CoreTurn s s1 →
    (s.readByte s.pc ∉ implementedOpcodes →
      ∃ pc after, step s = .fault (.unimplementedOpcode pc (s.readByte s.pc) after)) ∧
    (s.readByte s.pc ∈ implementedOpcodes → ∃ t, step s = .next t)) ∧
  ((List.range 256).filter fun n => BitVec.ofNat 8 n ∉ implementedOpcodes).length = 196

/-- The fault reports the opcode's address and byte and leaves PC one past it and the fault status set, all else as it
was; a faulted core takes no step and accepts no request (60_exceptions.md section 1; the reported and the final PC and
the sticky status are decision D15, log 11). -/
def Obligations.UnimplementedOpcodeIsFatal : Prop :=
  (∀ s s1 : State, CoreTurn s s1 → s.readByte s.pc ∉ implementedOpcodes →
    step s = .fault (.unimplementedOpcode s.pc (s.readByte s.pc)
      { s1 with pc := s.pc + 1#16, faulted := .yes s.pc (s.readByte s.pc) }) ∧ stepCycles s = none) ∧
  (∀ (s : State) (pc : Word) (op v : Byte), s.faulted = .yes pc op → vectorOk v = true →
    step s = .fault (.coreFaulted pc op) ∧ injectInterrupt v s = .next s)

/-- A conditional jump consumes its immediates whether or not its condition holds: the step ends with PC at the target or
at the opcode's address + 3, and nothing else changed; a conditional return not taken ends at the opcode's address + 1
(30_encoding.md section 6; which condition each of JZ, JNC, JC, RZ, RNZ tests is the spec's general knowledge G3). -/
def Obligations.ConditionalJumpsSkipImmediates : Prop :=
  (∀ (s s1 : State) (adr : Word) (i : Instr) (taken : Bool),
    (i, taken) ∈ [(.jnz adr, !s.flags.z), (.jz adr, s.flags.z), (.jnc adr, !s.flags.cy), (.jc adr, s.flags.cy)] →
    AboutToRun s s1 i → step s = .next { s1 with pc := if taken then adr else s.pc + 3#16 }) ∧
  (∀ s s1 : State, (AboutToRun s s1 .rnz ∧ s.flags.z = true) ∨ (AboutToRun s s1 .rz ∧ s.flags.z = false) →
    step s = .next { s1 with pc := s.pc + 1#16 })

/-! ### Memory -/

/-- A byte write is read back at its address and nowhere else, and changes nothing but memory (20_memory.md R63). -/
def Obligations.ByteWriteThenRead : Prop :=
  ∀ (s : State) (addr : Word) (v : Byte), StoresOnly s (s.writeByte addr v) addr v

/-- A word read takes its low byte at the address and its high byte at the next, modulo 2^16 (20_memory.md R64). -/
def Obligations.WordReadIsLittleEndian : Prop :=
  (∀ (s : State) (addr : Word),
    (s.readWord addr).toNat = (s.readByte addr).toNat + 256 * (s.readByte (addr + 1#16)).toNat) ∧
  (∀ s : State, (s.readWord 0xFFFF).toNat = (s.readByte 0xFFFF).toNat + 256 * (s.readByte 0x0000).toNat)

/-- A word write is the mirror image of the word read, at every address, 0xFFFF included (20_memory.md section 2; the two
stores are the spec's own derivation). -/
def Obligations.WordWriteThenRead : Prop :=
  ∀ (s : State) (addr w : Word),
    (s.writeWord addr w).readWord addr = w ∧
    (∀ x, x ≠ addr → x ≠ addr + 1#16 → (s.writeWord addr w).readByte x = s.readByte x) ∧
    s.writeWord addr w = { s with mem := (s.writeWord addr w).mem }

/-- Two memories in canonical form that read the same at all 65,536 addresses are the same list (10_state.md section 6;
the form is the model's, log 10). -/
def Obligations.CanonicalMemoryIsUnique : Prop :=
  ∀ m m' : Memory, m.wf = true → m'.wf = true →
    (∀ addr : Word, m.read addr.toNat = m'.read addr.toNat) → m = m'

/-! ### ALU primitives -/

/-- parity8 is 1 exactly for an even count of 1-bits, and after every primitive that updates P, P is 1 exactly when the
low byte of its result has an even count of 1-bits (40_alu_primitives.md R120). -/
def Obligations.ParityLaw : Prop :=
  (∀ v : Byte, parity8 v = true ↔ onesIn v % 2 = 0) ∧
  ∀ (s : State) (v : Byte) (cin : Bool),
    (∀ t ∈ [s.aluAdd v cin, s.aluSub v cin, s.aluAnd v, s.aluOr v, s.aluXor v, s.aluDaa],
      (t.flags.p = true ↔ onesIn t.a % 2 = 0)) ∧
    (∀ r : Reg, ((s.aluInr r).flags.p = true ↔ onesIn (s.readReg r + 1#8) % 2 = 0) ∧
      ((s.aluDcr r).flags.p = true ↔ onesIn (s.readReg r - 1#8) % 2 = 0)) ∧
    ((s.aluCmp v).flags.p = true ↔ onesIn (s.a - v) % 2 = 0)

/-- SetZSP writes Z, S and P from the byte and nothing else (40_alu_primitives.md R121). -/
def Obligations.SetZspWritesThreeFlags : Prop :=
  ∀ (f : Flags) (v : Byte), ZspDescribe (f.setZSP v) v ∧ (f.setZSP v).cy = f.cy ∧ (f.setZSP v).ac = f.ac

/-- ADD: the sum modulo 256, CY its bit 8, AC the carry out of bit 3, Z, S, P of the result, nothing else written
(40_alu_primitives.md section 2; that AC is updated is decision D4). -/
def Obligations.AddWithCarry : Prop :=
  ∀ (s : State) (v : Byte) (cin : Bool),
    (s.aluAdd v cin).a.toNat = (s.a.toNat + v.toNat + cin.toNat) % 256 ∧
    ((s.aluAdd v cin).flags.cy = true ↔ 256 ≤ s.a.toNat + v.toNat + cin.toNat) ∧
    ((s.aluAdd v cin).flags.ac = true ↔ 16 ≤ s.a.toNat % 16 + v.toNat % 16 + cin.toNat) ∧
    ZspDescribe (s.aluAdd v cin).flags (s.aluAdd v cin).a ∧
    s.aluAdd v cin = { s with a := (s.aluAdd v cin).a, flags := (s.aluAdd v cin).flags }

/-- SUB, defined as the addition of the complement with CY inverted, is the difference modulo 256; CY is the borrow; AC
is the carry of the addition performed (40_alu_primitives.md section 2; the closed form is the spec's own derivation, AC
is decision D4). -/
def Obligations.SubIsDifferenceWithBorrow : Prop :=
  ∀ (s : State) (v : Byte) (cin : Bool),
    (s.aluSub v cin).a = s.a - v - BitVec.ofNat 8 cin.toNat ∧
    ((s.aluSub v cin).flags.cy = true ↔ s.a.toNat < v.toNat + cin.toNat) ∧
    ((s.aluSub v cin).flags.ac = true ↔ v.toNat % 16 + cin.toNat ≤ s.a.toNat % 16) ∧
    ZspDescribe (s.aluSub v cin).flags (s.aluSub v cin).a ∧
    s.aluSub v cin = { s with a := (s.aluSub v cin).a, flags := (s.aluSub v cin).flags }

/-- CMP sets Z, S, P and CY exactly as SUB without borrow-in would, CY being 1 exactly when A < v, and keeps A and AC
(40_alu_primitives.md section 3; that AC is kept is decision D5). -/
def Obligations.CompareAgreesWithSub : Prop :=
  ∀ (s : State) (v : Byte),
    s.aluCmp v = { s with flags := { (s.aluSub v false).flags with ac := s.flags.ac } } ∧
    ((s.aluCmp v).flags.cy = true ↔ s.a.toNat < v.toNat)

/-- The primitives no opcode reaches, and XOR with any operand. INR adds 1 to a register, or to the byte at HL, as DCR
subtracts 1 there: Z, S, P of the result, CY and AC kept. OR and XOR write A, Z, S, P and clear CY and AC. RLC moves every
bit of A one place up and bit 7 to bit 0; RAL does so with the old CY coming in at bit 0, RAR moves down with the old CY
coming in at bit 7; CY takes the bit that leaves, and A and CY are all that changes. RAL and RAR undo each other, RLC and
RRC undo each other on A, eight RRC restore A (40_alu_primitives.md sections 2 to 4 and 7; AC after INR and DCR is decision
D6, log 9, after OR and XOR D7, log 8; the bit movements are the spec's general knowledge G8, log 14; M as the byte at HL
is G1). -/
def Obligations.UnreachedPrimitives : Prop :=
  (∀ (s : State) (r : Reg), r ≠ .m → (s.aluInr r).readReg r = s.readReg r + 1#8 ∧
    ZspDescribe (s.aluInr r).flags (s.readReg r + 1#8) ∧
    s.aluInr r = { s.writeReg r (s.readReg r + 1#8) with flags := (s.aluInr r).flags } ∧
    (s.aluInr r).flags.cy = s.flags.cy ∧ (s.aluInr r).flags.ac = s.flags.ac) ∧
  (∀ (s t : State) (v : Byte),
    (t, v) ∈ [(s.aluInr .m, s.readByte s.hl + 1#8), (s.aluDcr .m, s.readByte s.hl - 1#8)] →
    StoresOnly s { t with flags := s.flags } s.hl v ∧ ZspDescribe t.flags v ∧
    t.flags.cy = s.flags.cy ∧ t.flags.ac = s.flags.ac) ∧
  (∀ (s t : State) (v w : Byte), (t, w) ∈ [(s.aluOr v, s.a ||| v), (s.aluXor v, s.a ^^^ v)] →
    t.a = w ∧ ZspDescribe t.flags w ∧ t.flags.cy = false ∧ t.flags.ac = false ∧
    t = { s with a := w, flags := t.flags }) ∧
  (∀ s : State,
    ((∀ k, k < 8 → s.aluRlc.a.getLsbD ((k + 1) % 8) = s.a.getLsbD k) ∧ s.aluRlc.flags.cy = s.a.getLsbD 7) ∧
    ((∀ k, k < 7 → s.aluRal.a.getLsbD (k + 1) = s.a.getLsbD k) ∧ s.aluRal.a.getLsbD 0 = s.flags.cy ∧
      s.aluRal.flags.cy = s.a.getLsbD 7) ∧
    ((∀ k, k < 7 → s.aluRar.a.getLsbD k = s.a.getLsbD (k + 1)) ∧ s.aluRar.a.getLsbD 7 = s.flags.cy ∧
      s.aluRar.flags.cy = s.a.getLsbD 0) ∧
    ∀ t ∈ [s.aluRlc, s.aluRal, s.aluRar], t = { s with a := t.a, flags := { s.flags with cy := t.flags.cy } }) ∧
  (∀ s : State, s.aluRal.aluRar = s ∧ s.aluRar.aluRal = s ∧ s.aluRlc.aluRrc.a = s.a ∧ s.aluRrc.aluRlc.a = s.a) ∧
  (∀ s : State, s.aluRrc.aluRrc.aluRrc.aluRrc.aluRrc.aluRrc.aluRrc.aluRrc.a = s.a)

/-- CMA complements A and writes no flag, CMC flips CY, STC sets CY, and nothing else changes; no opcode decodes to them
(40_alu_primitives.md R135, R136, R137). -/
def Obligations.ComplementAndCarryPrimitives : Prop :=
  (∀ s : State, s.aluCma.a.toNat = 255 - s.a.toNat ∧ s.aluCma = { s with a := s.aluCma.a }) ∧
  (∀ s : State, s.aluCmc = { s with flags := { s.flags with cy := !s.flags.cy } }) ∧
  (∀ s : State, s.aluStc = { s with flags := { s.flags with cy := true } }) ∧
  (∀ op ∈ [0x2F#8, 0x3F#8, 0x37#8], decode [op] = .error (.unimplemented op))

/-! ### Control instructions -/

/-- JMP, JNZ, JZ, JNC, JC write PC and nothing else: the target when the condition holds, else PC stays past the
instruction (41_control.md sections 1 and 2; JMP and the conditions Z, NC, C are the spec's general knowledge G2, G3). -/
def Obligations.JumpResults : Prop :=
  ∀ (s : State) (adr : Word),
    exec (.jmp adr) s = .next { s with pc := adr } ∧
    exec (.jnz adr) s = .next { s with pc := if s.flags.z = false then adr else s.pc } ∧
    exec (.jz adr) s = .next { s with pc := if s.flags.z = true then adr else s.pc } ∧
    exec (.jnc adr) s = .next { s with pc := if s.flags.cy = false then adr else s.pc } ∧
    exec (.jc adr) s = .next { s with pc := if s.flags.cy = true then adr else s.pc }

/-- CALL pushes the address of the instruction after it, the opcode's address + 3, and goes to its target; the two stack
bytes, SP and PC are all that changes (41_control.md R159). -/
def Obligations.CallResult : Prop :=
  (∀ adr : Word, encode (.call adr) = [0xCD#8, BitVec.ofNat 8 adr.toNat, BitVec.ofNat 8 (adr.toNat / 256)]) ∧
  (∀ (s : State) (adr : Word), ∃ t, exec (.call adr) s = .next t ∧ Pushed s t s.pc ∧ t.pc = adr ∧
    t = { s with mem := t.mem, sp := t.sp, pc := t.pc }) ∧
  (∀ (s s1 : State) (adr : Word), AboutToRun s s1 (.call adr) →
    ∃ t, step s = .next t ∧ Pushed s t (s.pc + 3#16) ∧ t.pc = adr)

/-- RET takes PC from the two bytes at SP, adds 2 to SP and changes nothing else, IE included; and a CALL followed by a
RET at its target, both turns the core's and whatever turns follow, restores PC to the instruction after the CALL and
restores SP, for every SP, provided the byte at the target is still RET after the push (41_control.md R160). -/
def Obligations.RetResult : Prop :=
  encode .ret = [0xC9#8] ∧
  (∀ s : State, exec .ret s = .next { s with
    pc := BitVec.ofNat 16 ((s.readByte s.sp).toNat + 256 * (s.readByte (s.sp + 1#16)).toNat), sp := s.sp + 2#16 }) ∧
  (∀ (s s1 : State) (adr : Word), AboutToRun s s1 (.call adr) → s1.nextTurn.1 = .core →
    (∀ t, step s = .next t → t.readByte adr = 0xC9#8) →
    ∃ t u, step s = .next t ∧ step t = .next u ∧ u.pc = s.pc + 3#16 ∧ u.sp = s.sp)

/-- RNZ and RZ behave as RET when their condition holds; else nothing changes, and no stack byte is read
(41_control.md section 2; the two behaviours and the condition Z are the spec's general knowledge G2, G3). -/
def Obligations.ConditionalReturnResults : Prop :=
  ∀ s : State,
    exec .rnz s = .next (if s.flags.z = false then { s with pc := s.readWord s.sp, sp := s.sp + 2#16 } else s) ∧
    exec .rz s = .next (if s.flags.z = true then { s with pc := s.readWord s.sp, sp := s.sp + 2#16 } else s)

/-- NOP changes nothing. EI sets IE and nothing else, and a request at the boundary right after it is accepted
(41_control.md section 2; NOP is general knowledge G2, the immediate effect is decision D16). -/
def Obligations.NopAndEiResults : Prop :=
  ∀ s : State, exec .nop s = .next s ∧
    ∃ t, exec .ei s = .next t ∧ t = { s with ie := true } ∧
      (s.faulted = .no → ∀ v, vectorOk v = true → ∃ u, injectInterrupt v t = .next u ∧ u.ie = false ∧ Pushed t u t.pc)

/-- DI clears IE and nothing else, and a request at the boundary right after it is dropped (41_control.md R165). -/
def Obligations.DiResult : Prop :=
  encode .di = [0xF3#8] ∧
  ∀ s : State, ∃ t, exec .di s = .next t ∧ t = { s with ie := false } ∧
    ∀ v, vectorOk v = true → injectInterrupt v t = .next t

/-! ### Load and store instructions -/

/-- LXI loads the high byte of its immediate into the first-named register and the low byte into the second, or SP; MVI
loads its register; the five register MOVs copy the source; no flag and nothing else changes (42_load_store.md; the
operations and the operands of the MOV bytes are the spec's general knowledge G1, G2). -/
def Obligations.RegisterLoadResults : Prop :=
  ∀ (s : State) (w : Word) (v : Byte),
    exec (.lxiB w) s = .next { s with b := BitVec.ofNat 8 (w.toNat / 256), c := BitVec.ofNat 8 w.toNat } ∧
    exec (.lxiD w) s = .next { s with d := BitVec.ofNat 8 (w.toNat / 256), e := BitVec.ofNat 8 w.toNat } ∧
    exec (.lxiH w) s = .next { s with h := BitVec.ofNat 8 (w.toNat / 256), l := BitVec.ofNat 8 w.toNat } ∧
    exec (.lxiSP w) s = .next { s with sp := w } ∧
    exec (.mviB v) s = .next { s with b := v } ∧ exec (.mviC v) s = .next { s with c := v } ∧
    exec (.mviH v) s = .next { s with h := v } ∧ exec (.mviA v) s = .next { s with a := v } ∧
    exec .movLA s = .next { s with l := s.a } ∧ exec .movAD s = .next { s with a := s.d } ∧
    exec .movAE s = .next { s with a := s.e } ∧ exec .movAH s = .next { s with a := s.h } ∧
    exec .movAL s = .next { s with a := s.l }

/-- LDA, LDAX D and MOV r,M load one byte, from the direct address, from DE, from HL as it was before the instruction,
and change nothing else (42_load_store.md; the operations are general knowledge G1, G2). -/
def Obligations.LoadFromMemoryResults : Prop :=
  ∀ (s : State) (adr : Word),
    exec (.lda adr) s = .next { s with a := s.readByte adr } ∧
    exec .ldaxD s = .next { s with a := s.readByte (BitVec.ofNat 16 (s.d.toNat * 256 + s.e.toNat)) } ∧
    exec .movDM s = .next { s with d := s.readByte (BitVec.ofNat 16 (s.h.toNat * 256 + s.l.toNat)) } ∧
    exec .movEM s = .next { s with e := s.readByte (BitVec.ofNat 16 (s.h.toNat * 256 + s.l.toNat)) } ∧
    exec .movHM s = .next { s with h := s.readByte (BitVec.ofNat 16 (s.h.toNat * 256 + s.l.toNat)) } ∧
    exec .movAM s = .next { s with a := s.readByte (BitVec.ofNat 16 (s.h.toNat * 256 + s.l.toNat)) }

/-- STA stores A at its address, MVI M its immediate at HL, MOV M,A stores A at HL; that byte is all that changes
(42_load_store.md; MVI M and MOV M,A are general knowledge G1, G2). -/
def Obligations.StoreResults : Prop :=
  ∀ s : State,
    (∀ adr, ∃ t, exec (.sta adr) s = .next t ∧ StoresOnly s t adr s.a) ∧
    (∀ v, ∃ t, exec (.mviM v) s = .next t ∧ StoresOnly s t s.hl v) ∧
    (∃ t, exec .movMA s = .next t ∧ StoresOnly s t s.hl s.a) ∧ s.hl.toNat = s.h.toNat * 256 + s.l.toNat

/-! ### Arithmetic and logic instructions -/

/-- DCR B, C, A subtract 1 modulo 256, set Z, S, P from the result, keep CY and AC, and change nothing else
(43_arith_logic.md; that AC is kept is decision D6, log 9; that DCR
calls the primitive DCR is the spec's general knowledge G2, log 14). -/
def Obligations.DcrResults : Prop :=
  ∀ s : State,
    (∃ f, exec .dcrB s = .next { s with b := s.b - 1#8, flags := f } ∧ ZspDescribe f (s.b - 1#8) ∧
      f.cy = s.flags.cy ∧ f.ac = s.flags.ac) ∧
    (∃ f, exec .dcrC s = .next { s with c := s.c - 1#8, flags := f } ∧ ZspDescribe f (s.c - 1#8) ∧
      f.cy = s.flags.cy ∧ f.ac = s.flags.ac) ∧
    (∃ f, exec .dcrA s = .next { s with a := s.a - 1#8, flags := f } ∧ ZspDescribe f (s.a - 1#8) ∧
      f.cy = s.flags.cy ∧ f.ac = s.flags.ac)

/-- INX D and INX H add 1 to the pair modulo 2^16, the carry crossing into the high register, and write no flag
(43_arith_logic.md; the operation is general knowledge G2). -/
def Obligations.InxResults : Prop :=
  ∀ s : State,
    (∃ t, exec .inxD s = .next t ∧ t.de.toNat = (s.d.toNat * 256 + s.e.toNat + 1) % 65536 ∧
      t.de.toNat = t.d.toNat * 256 + t.e.toNat ∧ t = { s with d := t.d, e := t.e }) ∧
    (∃ t, exec .inxH s = .next t ∧ t.hl.toNat = (s.h.toNat * 256 + s.l.toNat + 1) % 65536 ∧
      t.hl.toNat = t.h.toNat * 256 + t.l.toNat ∧ t = { s with h := t.h, l := t.l })

/-- DAD adds the pair to HL modulo 2^16, CY is bit 16 of the sum and the other flags are kept; DAD H takes CY from the
old bit 7 of H; DAD SP, 0x39, is unimplemented (43_arith_logic.md, 40_alu_primitives.md section 2; that DAD rp calls the
primitive DAD is the spec's general knowledge G2, log 14). -/
def Obligations.DadResults : Prop :=
  encode .dadB = [0x09#8] ∧ encode .dadD = [0x19#8] ∧ encode .dadH = [0x29#8] ∧
  decode [0x39#8] = .error (.unimplemented 0x39#8) ∧
  ∀ s : State,
    (∀ (i : Instr) (rp : Nat), (i = .dadB ∧ rp = s.b.toNat * 256 + s.c.toNat) ∨
        (i = .dadD ∧ rp = s.d.toNat * 256 + s.e.toNat) ∨ (i = .dadH ∧ rp = s.h.toNat * 256 + s.l.toNat) →
      ∃ t, exec i s = .next t ∧
        t.h.toNat * 256 + t.l.toNat = (s.h.toNat * 256 + s.l.toNat + rp) % 65536 ∧
        (t.flags.cy = true ↔ 65536 ≤ s.h.toNat * 256 + s.l.toNat + rp) ∧
        t = { s with h := t.h, l := t.l, flags := { s.flags with cy := t.flags.cy } }) ∧
    (∃ t, exec .dadH s = .next t ∧ t.flags.cy = s.h.getLsbD 7)

/-- DAA: 6 is added when the low nibble is above 9 or AC is set, then 0x60 when the high nibble of that is above 9 or CY
is set, which forces CY; both sums wrap; Z, S, P of the result; AC kept (43_arith_logic.md, 40_alu_primitives.md section
6; the 8-bit reading is decision D8, log 6). -/
def Obligations.DaaResult : Prop :=
  ∀ s : State, ∃ t, exec .daa s = .next t ∧
    (∀ low high : Nat,
      (low = if 9 < s.a.toNat % 16 ∨ s.flags.ac = true then (s.a.toNat + 6) % 256 else s.a.toNat) →
      (high = if 9 < low / 16 ∨ s.flags.cy = true then (low + 96) % 256 else low) →
      t.a.toNat = high ∧ (t.flags.cy = true ↔ (9 < low / 16 ∨ s.flags.cy = true))) ∧
    ZspDescribe t.flags t.a ∧ t.flags.ac = s.flags.ac ∧ t = { s with a := t.a, flags := t.flags }

/-- ADI of two packed-BCD bytes followed by DAA gives the packed-BCD sum with CY the decimal carry, unless the binary sum
is in 0xFA..0xFF (43_arith_logic.md; derived there by enumeration, on decisions D4 and D8; that ADI calls ADD is the
spec's general knowledge G2, log 14). -/
def Obligations.DaaAfterAdiIsDecimalSum : Prop :=
  ∀ (s : State) (x y : Nat), x < 100 → y < 100 → s.a = packedBcd x →
    ¬ (250 ≤ (packedBcd x).toNat + (packedBcd y).toNat ∧ (packedBcd x).toNat + (packedBcd y).toNat ≤ 255) →
    ∃ t u, exec (.adi (packedBcd y)) s = .next t ∧ exec .daa t = .next u ∧
      u.a = packedBcd ((x + y) % 100) ∧ (u.flags.cy = true ↔ 100 ≤ x + y) ∧
      u = { s with a := u.a, flags := u.flags }

/-- RRC moves every bit of A one place down and bit 0 to bit 7 and to CY; the other flags are kept (43_arith_logic.md,
40_alu_primitives.md section 4; the bit movement is general knowledge G8). -/
def Obligations.RrcResult : Prop :=
  ∀ s : State, ∃ t, exec .rrc s = .next t ∧
    (∀ k, k < 8 → t.a.getLsbD k = s.a.getLsbD ((k + 1) % 8)) ∧ t.flags.cy = s.a.getLsbD 0 ∧
    t = { s with a := t.a, flags := { s.flags with cy := t.flags.cy } }

/-- ANA A keeps A, XRA A clears it, ANI masks it; Z, S, P of the result, CY cleared, AC bit 3 of the two operands or'ed
for the two ANDs and 0 for XRA (43_arith_logic.md; AC is decision D7, log 8; that they call the primitives AND and XOR is
the spec's general knowledge G2, log 14). -/
def Obligations.LogicResults : Prop :=
  ∀ (s : State) (v : Byte),
    (∃ f, exec .anaA s = .next { s with flags := f } ∧ ZspDescribe f s.a ∧ f.cy = false ∧ f.ac = s.a.getLsbD 3) ∧
    exec .xraA s = .next { s with a := 0x00#8, flags := ⟨true, false, true, false, false⟩ } ∧
    (∃ f, exec (.ani v) s = .next { s with a := s.a &&& v, flags := f } ∧ ZspDescribe f (s.a &&& v) ∧
      f.cy = false ∧ f.ac = (s.a.getLsbD 3 || v.getLsbD 3))

/-- ADI adds its immediate, not the old CY: the sum modulo 256, CY its bit 8, AC the carry out of bit 3, Z, S, P of the
result, nothing else (43_arith_logic.md; that AC is updated is decision D4, log 17; that ADI calls ADD with carry-in 0 is
the spec's general knowledge G2, log 14). -/
def Obligations.AdiResult : Prop :=
  ∀ (s : State) (v : Byte), ∃ t, exec (.adi v) s = .next t ∧
    t.a.toNat = (s.a.toNat + v.toNat) % 256 ∧ (t.flags.cy = true ↔ 256 ≤ s.a.toNat + v.toNat) ∧
    (t.flags.ac = true ↔ 16 ≤ s.a.toNat % 16 + v.toNat % 16) ∧ ZspDescribe t.flags t.a ∧
    t = { s with a := t.a, flags := t.flags }

/-- CPI keeps A; Z is 1 exactly for equal, CY exactly for A below the immediate, S and P describe the difference, AC is
kept (43_arith_logic.md; that AC is kept is decision D5, log 9; that CPI
calls the primitive CMP is the spec's general knowledge G2, log 14). -/
def Obligations.CpiResult : Prop :=
  ∀ (s : State) (v : Byte), ∃ t, exec (.cpi v) s = .next t ∧
    (t.flags.z = true ↔ s.a = v) ∧ (t.flags.cy = true ↔ s.a.toNat < v.toNat) ∧
    ZspDescribe t.flags (s.a - v) ∧ t = { s with flags := { t.flags with ac := s.flags.ac } }

/-! ### Stack and exchange instructions -/

/-- PUSH B, D, H, PSW push the pair, the first-named register high; the flag byte of PSW is Z + 2 S + 4 P + 8 CY + 16 AC.
The two bytes and SP are all that changes (44_stack.md; the layout for B, D, H is decision D20, the flag byte D2). -/
def Obligations.PushResults : Prop :=
  ∀ (s : State) (i : Instr) (hi lo : Nat),
    (i = .pushB ∧ hi = s.b.toNat ∧ lo = s.c.toNat) ∨ (i = .pushD ∧ hi = s.d.toNat ∧ lo = s.e.toNat) ∨
      (i = .pushH ∧ hi = s.h.toNat ∧ lo = s.l.toNat) ∨
      (i = .pushPSW ∧ hi = s.a.toNat ∧ lo = s.flags.z.toNat + 2 * s.flags.s.toNat + 4 * s.flags.p.toNat +
        8 * s.flags.cy.toNat + 16 * s.flags.ac.toNat) →
    ∃ t, exec i s = .next t ∧ Pushed s t (BitVec.ofNat 16 (hi * 256 + lo)) ∧ t = { s with mem := t.mem, sp := t.sp }

/-- POP B, D, H take the low register from SP and the high one from SP+1; POP PSW takes A from SP+1 and the five flags
from bits 0 to 4 of the byte at SP; SP goes up by 2, memory and all else is kept (44_stack.md; the layout is decision D20,
the flag bits D2 and D3). -/
def Obligations.PopResults : Prop :=
  ∀ s : State,
    exec .popB s = .next { s with b := s.readByte (s.sp + 1#16), c := s.readByte s.sp, sp := s.sp + 2#16 } ∧
    exec .popD s = .next { s with d := s.readByte (s.sp + 1#16), e := s.readByte s.sp, sp := s.sp + 2#16 } ∧
    exec .popH s = .next { s with h := s.readByte (s.sp + 1#16), l := s.readByte s.sp, sp := s.sp + 2#16 } ∧
    exec .popPSW s = .next { s with
      a := s.readByte (s.sp + 1#16), sp := s.sp + 2#16,
      flags := ⟨(s.readByte s.sp).getLsbD 0, (s.readByte s.sp).getLsbD 1, (s.readByte s.sp).getLsbD 2,
        (s.readByte s.sp).getLsbD 3, (s.readByte s.sp).getLsbD 4⟩ }

/-- A push followed by the pop of the same pair restores the whole state but the two stack bytes; for PSW that is A and
all five flags, whatever they are (10_state.md section 3, 44_stack.md; the flag byte is decision D2). -/
def Obligations.PushThenPopRestores : Prop :=
  ∀ (s : State) (p q : Instr), (p, q) ∈ [(.pushB, .popB), (.pushD, .popD), (.pushH, .popH), (.pushPSW, .popPSW)] →
    ∃ t u, exec p s = .next t ∧ exec q t = .next u ∧ u = { s with mem := u.mem } ∧
      ∀ x, x ≠ s.sp - 1#16 → x ≠ s.sp - 2#16 → u.readByte x = s.readByte x

/-- XCHG swaps DE and HL and changes nothing else, and two of them restore the state (44_stack.md R214). -/
def Obligations.XchgResult : Prop :=
  encode .xchg = [0xEB#8] ∧
  ∀ s : State, ∃ t, exec .xchg s = .next t ∧ t = { s with d := s.h, e := s.l, h := s.d, l := s.e } ∧
    exec .xchg t = .next s

/-! ### Ports and shift hardware -/

/-- OUT 2 sets shift_offset to A modulo 8; OUT 4 moves shift_hi to shift_lo and A to shift_hi; nothing else changes; two
OUT 4 of v1 then v2 leave {v2, v1} (45_io.md sections 1 and 2; that OUT 2 and OUT 4 do not also store in the port array is
decision D9, conflict C10, log 17). -/
def Obligations.OutToShiftHardware : Prop :=
  (∀ s : State, ∃ t, exec (.out 0x02#8) s = .next t ∧ t.shiftOffset.toNat = s.a.toNat % 8 ∧
    t = { s with shiftOffset := t.shiftOffset }) ∧
  (∀ s : State, exec (.out 0x04#8) s = .next { s with shiftLo := s.shiftHi, shiftHi := s.a }) ∧
  (∀ (s : State) (v1 v2 : Byte), ∃ t u, exec (.out 0x04#8) { s with a := v1 } = .next t ∧
    exec (.out 0x04#8) { t with a := v2 } = .next u ∧ u.shiftHi = v2 ∧ u.shiftLo = v1 ∧
    u.shiftOffset = s.shiftOffset)

/-- OUT to 0, 1, 6, 7, 8 stores A in that port's entry and nothing else; OUT to 3 or 5 changes no state but records the
event; OUT to 9..255 changes nothing (45_io.md sections 1 and 2; no store for 2 to 5 is D9, the discard is D10, log 7, the
recorded event D13, log 3). -/
def Obligations.OutToOtherPorts : Prop :=
  (∀ (s : State) (p : Byte), p.toNat ∈ [0, 1, 6, 7, 8] → ∃ t, exec (.out p) s = .next t ∧
    (∀ (k : Nat) (hk : k < 9), t.ports[k] = if k = p.toNat then s.a else s.ports[k]) ∧
    t = { s with ports := t.ports }) ∧
  (∀ (s : State) (p : Byte), p.toNat ∈ [3, 5] → exec (.out p) s = .next { s with sound := s.sound ++ [⟨p, s.a⟩] }) ∧
  (∀ (s : State) (p : Byte), 9 ≤ p.toNat → exec (.out p) s = .next s)

/-- IN 3 reads the 8-bit window of the 16-bit shift register that starts shift_offset bits below its top, and changes
nothing but A; bit 0 of shift_lo is never seen (45_io.md R222, R226, R230; that no IN changes anything but A is the spec's
own derivation in R222, conflict C17). -/
def Obligations.InShiftWindow : Prop :=
  ∀ s : State, ∃ t, exec (.inp 0x03#8) s = .next t ∧
    t.a.toNat = (s.shiftHi.toNat * 256 + s.shiftLo.toNat) / 2 ^ (8 - s.shiftOffset.toNat) % 256 ∧
    t.a.toNat = (s.shiftHi.toNat * 256 + s.shiftLo.toNat) * 2 ^ s.shiftOffset.toNat / 256 % 256 ∧
    t = { s with a := t.a } ∧ exec (.inp 0x03#8) { s with shiftLo := s.shiftLo ^^^ 1#8 } =
      .next { s with shiftLo := s.shiftLo ^^^ 1#8, a := t.a }

/-- IN 1 and IN 2 return the port's byte, IN 0 the constant of the machine whatever it is, IN 4..255 return 0x00; only A
changes and no flag (45_io.md sections 1 and 4; IN 0 is the open parameter D12, log 4, the zeros are D11). -/
def Obligations.InFromOtherPorts : Prop :=
  ∀ s : State,
    exec (.inp 0x00#8) s = .next { s with a := Config.in0Const } ∧
    exec (.inp 0x01#8) s = .next { s with a := s.ports[1] } ∧
    exec (.inp 0x02#8) s = .next { s with a := s.ports[2] } ∧
    ∀ p : Byte, 4 ≤ p.toNat → exec (.inp p) s = .next { s with a := 0x00#8 }

/-- Of the port array the core writes only entries 0, 1, 6, 7, 8, by OUT to that port, and reads only entries 1 and 2:
changing the other entries changes nothing an instruction does but those entries. The host may write any of the nine, and
all are 0 at reset (10_state.md section 4, 45_io.md sections 2 and 4; no store to 2 to 5 is decision D9, none to 9 and
above D10, log 7, the zeros read are D11). -/
def Obligations.CorePortAccess : Prop :=
  (∀ (i : Instr) (s t : State) (k : Nat) (hk : k < 9), exec i s = .next t → t.ports[k] ≠ s.ports[k] →
    i = .out (BitVec.ofNat 8 k) ∧ k ∈ [0, 1, 6, 7, 8]) ∧
  (∀ (i : Instr) (s t : State) (ports : Vector Byte 9), ports[1] = s.ports[1] → ports[2] = s.ports[2] →
    exec i s = .next t → ∃ q : Vector Byte 9, exec i { s with ports := ports } = .next { t with ports := q } ∧
      q[1] = t.ports[1] ∧ q[2] = t.ports[2]) ∧
  (∀ (s : State) (k : Nat) (v : Byte) (hk : k < 9), ∃ t, setInputPort k v s = .next t ∧ t.ports[k] = v) ∧
  (∀ (k : Nat) (hk : k < 9), State.reset.ports[k] = 0x00#8)

/-! ### Interrupts and the host -/

/-- A request with vector 8n is accepted when IE = 1, on a core that is not faulted: PC is pushed, PC becomes the vector,
IE is cleared, no flag or other register changes, and a second request changes nothing; with IE = 0 it changes nothing
(60_exceptions.md R250). -/
def Obligations.InterruptEntry : Prop :=
  ∀ (s : State) (n : Nat), n < 8 →
    (s.ie = true → s.faulted = .no → ∃ t, injectInterrupt (BitVec.ofNat 8 (8 * n)) s = .next t ∧
      Pushed s t s.pc ∧ t.pc.toNat = 8 * n ∧ t.ie = false ∧
      t = { s with mem := t.mem, sp := t.sp, pc := t.pc, ie := t.ie } ∧
      ∀ m, m < 8 → injectInterrupt (BitVec.ofNat 8 (8 * m)) t = .next t) ∧
    (s.ie = false → injectInterrupt (BitVec.ofNat 8 (8 * n)) s = .next s)

/-- A RET run by the handler with nothing pushed meanwhile resumes where the request was accepted: PC and SP are restored,
IE stays 0, every register and flag is as it was (60_exceptions.md sections 2, R252; IE is set again by EI alone). -/
def Obligations.InterruptThenReturnResumes : Prop :=
  ∀ (s : State) (v : Byte), vectorOk v = true → s.ie = true → s.faulted = .no →
    ∃ t u, injectInterrupt v s = .next t ∧ exec .ret t = .next u ∧ u = { s with ie := false, mem := u.mem } ∧
      ∀ x, x ≠ s.sp - 1#16 → x ≠ s.sp - 2#16 → u.readByte x = s.readByte x

/-- The three port writes of the host change one entry, by assignment, or, and and-not, and nothing else (45_io.md
section 3; the effects are decision D23). -/
def Obligations.HostPortWrites : Prop :=
  ∀ (s : State) (i : Nat) (hi : i < 9) (v : Byte),
    (∃ t, setInputPort i v s = .next t ∧ t = { s with ports := t.ports } ∧ t.ports[i] = v ∧
      ∀ (k : Nat) (hk : k < 9), k ≠ i → t.ports[k] = s.ports[k]) ∧
    (∃ t, orInputBit i v s = .next t ∧ t = { s with ports := t.ports } ∧ t.ports[i] = s.ports[i] ||| v ∧
      ∀ (k : Nat) (hk : k < 9), k ≠ i → t.ports[k] = s.ports[k]) ∧
    (∃ t, clearInputBit i v s = .next t ∧ t = { s with ports := t.ports } ∧ t.ports[i] = s.ports[i] &&& ~~~v ∧
      ∀ (k : Nat) (hk : k < 9), k ≠ i → t.ports[k] = s.ports[k])

/-- What is outside the interface is refused by name: a vector that is no 8n below 0x40, a port index above 8, a ROM of
more than 65,536 bytes (60_exceptions.md sections 1 and 2, 45_io.md section 3; decisions D14, D23, D24). -/
def Obligations.OutsideInterfaceIsRefused : Prop :=
  ∀ s : State,
    (∀ v : Byte, v.toNat % 8 ≠ 0 ∨ 64 ≤ v.toNat → injectInterrupt v s = .refused (.interruptVector v)) ∧
    (∀ (i : Nat) (v : Byte), 9 ≤ i → setInputPort i v s = .refused (.portIndex i) ∧
      orInputBit i v s = .refused (.portIndex i) ∧ clearInputBit i v s = .refused (.portIndex i)) ∧
    (∀ rom : List Byte, 65536 < rom.length → boot rom = .refused (.romTooLarge rom.length))

/-! ### Reset -/

/-- After reset every register, flag, port byte, shift register and memory byte is 0, IE is 1 and the core is not
faulted; with a ROM image of at most 65,536 bytes the memory holds the image from address 0 and 0 above it
(10_state.md R39). -/
def Obligations.ResetValues : Prop :=
  (∀ s, s = State.reset → s.a = 0 ∧ s.b = 0 ∧ s.c = 0 ∧ s.d = 0 ∧ s.e = 0 ∧ s.h = 0 ∧ s.l = 0 ∧
    s.flags = ⟨false, false, false, false, false⟩ ∧ s.sp = 0 ∧ s.pc = 0 ∧ s.ie = true ∧
    (∀ addr, s.readByte addr = 0) ∧ (∀ (k : Nat) (hk : k < 9), s.ports[k] = 0) ∧
    s.shiftLo = 0 ∧ s.shiftHi = 0 ∧ s.shiftOffset = 0 ∧ s.faulted = .no) ∧
  (∀ rom : List Byte, rom.length ≤ 65536 → ∃ t, boot rom = .next t ∧ t = { State.reset with mem := t.mem } ∧
    ∀ addr : Word, t.readByte addr = rom.getD addr.toNat 0)

/-! ### Whole-machine rules -/

/-- No instruction faults or is refused: each completes in every state, and leaves the fault status and the schedule as
they were (60_exceptions.md R243, 00_scope.md section 7; the schedule is the model's, log 2). -/
def Obligations.EveryInstructionCompletes : Prop :=
  ∀ (i : Instr) (s : State), ∃ t, exec i s = .next t ∧ t.faulted = s.faulted ∧ t.schedule = s.schedule

/-- IE is set by EI and cleared by DI and by an accepted interrupt, and by nothing else; no instruction's result depends
on it; it is 1 at reset (10_state.md R32). -/
def Obligations.InterruptLatchAccess : Prop :=
  (∀ (i : Instr) (s t : State), exec i s = .next t → t.ie = if i = .ei then true else if i = .di then false else s.ie) ∧
  (∀ (i : Instr) (s t : State) (b : Bool), exec i s = .next t →
    exec i { s with ie := b } = .next { t with ie := if i = .ei then true else if i = .di then false else b }) ∧
  (∀ (m : HostMove) (s t : State), hostMove m s = .next t → t.ie ≠ s.ie → ∃ v, m = .interrupt v ∧ t.ie = false) ∧
  State.reset.ie = true

/-- The flag table: Z, S, P change only under ADI, CPI, ANI, ANA, XRA, DCR, DAA and POP PSW, CY only under those but DCR,
and DAD and RRC, AC only under ADI, ANI, ANA, XRA and POP PSW (10_state.md section 3, 40_alu_primitives.md section 8; the
AC column rests on decisions D4 to D8, and which primitive an opcode calls, and that no load, store or control
instruction writes a flag, on the spec's general knowledge G2, log 14). -/
def Obligations.FlagWriters : Prop :=
  ∀ (i : Instr) (s t : State), exec i s = .next t →
    (writesZsp i = false → t.flags.z = s.flags.z ∧ t.flags.s = s.flags.s ∧ t.flags.p = s.flags.p) ∧
    (writesCy i = false → t.flags.cy = s.flags.cy) ∧ (writesAc i = false → t.flags.ac = s.flags.ac)

/-- The register table: A, B, C, D, E, H, L, SP and PC change only under the instructions listed as their writers, and
the shift hardware only under OUT: shift_offset under OUT 2, shift_hi and shift_lo under OUT 4 (10_state.md section 8,
derived there from the instruction rules, the operations and MOV operands among them being the spec's general knowledge
G1 and G2, log 14; for the shift hardware 10_state.md section 4, R33 and R35). -/
def Obligations.RegisterWriters : Prop :=
  ∀ (i : Instr) (s t : State), exec i s = .next t →
    (writesA i = false → t.a = s.a) ∧ (writesB i = false → t.b = s.b) ∧ (writesC i = false → t.c = s.c) ∧
    (writesD i = false → t.d = s.d) ∧ (writesE i = false → t.e = s.e) ∧ (writesH i = false → t.h = s.h) ∧
    (writesL i = false → t.l = s.l) ∧ (writesSp i = false → t.sp = s.sp) ∧
    (transfersControl i = false → t.pc = s.pc) ∧
    (i ≠ .out 0x02#8 → t.shiftOffset = s.shiftOffset) ∧
    (i ≠ .out 0x04#8 → t.shiftHi = s.shiftHi ∧ t.shiftLo = s.shiftLo)

/-- Memory changes only at the addresses the access table gives for the instruction, computed from the state it runs on
(20_memory.md section 5; the operations and MOV operands are the spec's general knowledge G1 and G2, log 14). -/
def Obligations.MemoryWriters : Prop :=
  ∀ (i : Instr) (s t : State) (x : Word), exec i s = .next t → x ∉ storedAddresses i s →
    t.readByte x = s.readByte x

/-- Every step from a state of the invariant, the core's or the host's, gives a state of the invariant: memory canonical,
the core not faulted, sound events of ports 3 and 5 only (10_state.md sections 6 and 7, 45_io.md section 2; the memory
form and the sound trace are the model's, log 3 and log 10). -/
def Obligations.StepKeepsInvariant : Prop :=
  ∀ s t : State, Inv s → step s = .next t → Inv t

/-- The reset state meets the invariant, and so does the state after any accepted ROM load (70_reset_and_hazards.md
section 1). -/
def Obligations.ResetMeetsInvariant : Prop :=
  Inv State.reset ∧ ∀ (rom : List Byte) (t : State), boot rom = .next t → Inv t
end

