-- ==== Sys2Proof/Laws/Flags.lean ====
section
/-! SUPPORT. What the flag computations write and keep (Machine/Flags.lean). -/

namespace Sys2Proof.Machine

@[simp] theorem Flags.setZSP_z (f : Flags) (v : Byte) : (f.setZSP v).z = (v == 0x00#8) := rfl

@[simp] theorem Flags.setZSP_s (f : Flags) (v : Byte) : (f.setZSP v).s = v.getLsbD 7 := rfl

@[simp] theorem Flags.setZSP_p (f : Flags) (v : Byte) : (f.setZSP v).p = parity8 v := by rfl

@[simp] theorem Flags.setZSP_cy (f : Flags) (v : Byte) : (f.setZSP v).cy = f.cy := rfl

@[simp] theorem Flags.setZSP_ac (f : Flags) (v : Byte) : (f.setZSP v).ac = f.ac := rfl

/-- Unpacking undoes packing, for all 32 combinations (10_state.md R30). -/
@[simp] theorem unpackFlags_packFlags (f : Flags) : unpackFlags (packFlags f) = f := by
  obtain ⟨z, s, p, cy, ac⟩ := f
  revert z s p cy ac
  decide

end Sys2Proof.Machine
end

