-- ==== Sys2Proof/Laws/Bits.lean ====
section
/-! SUPPORT. What splitting and joining words do (Machine/Bits.lean). -/

namespace Sys2Proof.Machine

theorem hi8_toNat (w : Word) : (hi8 w).toNat = w.toNat / 256 := by
  have h := w.isLt
  simp [hi8, BitVec.extractLsb'_toNat, Nat.shiftRight_eq_div_pow]
  omega

theorem lo8_toNat (w : Word) : (lo8 w).toNat = w.toNat % 256 := by
  simp [lo8, BitVec.extractLsb'_toNat]

theorem pair_toNat (hi lo : Byte) : (pair hi lo).toNat = hi.toNat * 256 + lo.toNat := by
  have h := lo.isLt
  have e : (pair hi lo).toNat = hi.toNat <<< 8 ||| lo.toNat := BitVec.toNat_append hi lo
  rw [e, Nat.shiftLeft_eq, Nat.mul_comm, ← Nat.two_pow_add_eq_or_of_lt h, Nat.mul_comm]

@[simp] theorem hi8_pair (hi lo : Byte) : hi8 (pair hi lo) = hi := by
  apply BitVec.eq_of_toNat_eq
  rw [hi8_toNat, pair_toNat]
  omega

@[simp] theorem lo8_pair (hi lo : Byte) : lo8 (pair hi lo) = lo := by
  apply BitVec.eq_of_toNat_eq
  rw [lo8_toNat, pair_toNat]
  omega

@[simp] theorem pair_hi8_lo8 (w : Word) : pair (hi8 w) (lo8 w) = w := by
  apply BitVec.eq_of_toNat_eq
  rw [pair_toNat, hi8_toNat, lo8_toNat]
  omega

end Sys2Proof.Machine
end

