-- ==== Sys2Proof/Laws/Memory.lean ====
section
/-! SUPPORT. The laws of the memory list: what a read gives after a write, and that every write keeps the canonical
form. Reads after writes need no canonical form. -/

namespace Sys2Proof.Machine

theorem Memory.read_erase (m : Memory) (a b : Nat) :
    (m.erase a).read b = if a = b then Memory.unlisted else m.read b := by
  induction m with
  | nil => simp [Memory.erase, Memory.read]
  | cons e m ih =>
    obtain ⟨k, v⟩ := e
    by_cases hk : k = a
    · subst hk
      by_cases hb : k = b <;> simp_all [Memory.erase, Memory.read]
    · by_cases hb : k = b
      · subst hb
        simp [Memory.erase, Memory.read, hk, Ne.symm hk]
      · simp [Memory.erase, Memory.read, hk, hb, ih]

theorem Memory.read_insert (m : Memory) (a : Nat) (v : Byte) (b : Nat) (h : m.read a = Memory.unlisted ∧ m.erase a = m) :
    (m.insert a v).read b = if a = b then v else m.read b := by
  induction m with
  | nil => simp [Memory.insert, Memory.read]
  | cons e m ih =>
    obtain ⟨k, w⟩ := e
    have hk : k ≠ a := by
      intro hk
      have hlen : ∀ l : Memory, (l.erase a).length ≤ l.length := by
        intro l
        induction l with
        | nil => simp [Memory.erase]
        | cons e l ihl =>
          obtain ⟨k', w'⟩ := e
          by_cases h' : k' = a
          · simp [Memory.erase, h']; omega
          · simp [Memory.erase, h', ihl]
      have := congrArg List.length h.2
      have := hlen m
      simp [Memory.erase, hk] at *
      omega
    have hm : Memory.read m a = Memory.unlisted ∧ Memory.erase m a = m := by
      simpa [Memory.read, Memory.erase, hk] using h
    by_cases hlt : a < k
    · simp [Memory.insert, Memory.read, hlt]
    · by_cases hkb : k = b
      · subst hkb
        simp [Memory.insert, Memory.read, hlt, Ne.symm hk]
      · simp [Memory.insert, Memory.read, hlt, hkb, ih hm]

theorem Memory.erase_erase (m : Memory) (a : Nat) : (m.erase a).erase a = m.erase a := by
  induction m with
  | nil => rfl
  | cons e m ih =>
    obtain ⟨k, v⟩ := e
    by_cases hk : k = a <;> simp [Memory.erase, hk, ih]

/-- A read gives the byte last written at its address and is blind to writes elsewhere. -/
theorem Memory.read_write (m : Memory) (a : Nat) (v : Byte) (b : Nat) :
    (m.write a v).read b = if a = b then v else m.read b := by
  unfold Memory.write
  split
  · next h => rw [Memory.read_erase, h]
  · rw [Memory.read_insert _ _ _ _ ⟨by simp [Memory.read_erase], Memory.erase_erase m a⟩, Memory.read_erase]
    split <;> simp_all

@[simp] theorem Memory.read_write_same (m : Memory) (a : Nat) (v : Byte) : (m.write a v).read a = v := by
  simp [Memory.read_write]

theorem Memory.read_write_other (m : Memory) {a b : Nat} (v : Byte) (h : a ≠ b) : (m.write a v).read b = m.read b := by
  simp [Memory.read_write, h]

theorem Memory.wfFrom_cons {lo k : Nat} {v : Byte} {m : Memory} :
    Memory.wfFrom lo ((k, v) :: m) = true ↔
      lo ≤ k ∧ k < Config.memorySize ∧ v ≠ Memory.unlisted ∧ Memory.wfFrom (k + 1) m = true := by
  simp [Memory.wfFrom, and_assoc]

theorem Memory.wfFrom_mono {lo lo' : Nat} {m : Memory} (h : lo ≤ lo') (hm : Memory.wfFrom lo' m = true) :
    Memory.wfFrom lo m = true := by
  cases m with
  | nil => rfl
  | cons e m =>
    obtain ⟨k, v⟩ := e
    simp only [Memory.wfFrom_cons] at *
    exact ⟨by omega, hm.2⟩

theorem Memory.wfFrom_erase {lo : Nat} {m : Memory} (a : Nat) (h : Memory.wfFrom lo m = true) :
    Memory.wfFrom lo (m.erase a) = true := by
  induction m generalizing lo with
  | nil => rfl
  | cons e m ih =>
    obtain ⟨k, v⟩ := e
    have hk := Memory.wfFrom_cons.1 h
    by_cases hka : k = a
    · simp only [Memory.erase, hka, if_true]
      exact Memory.wfFrom_mono (by omega) (ih hk.2.2.2)
    · simp only [Memory.erase, hka, if_false]
      exact Memory.wfFrom_cons.2 ⟨hk.1, hk.2.1, hk.2.2.1, ih hk.2.2.2⟩

theorem Memory.wfFrom_insert {lo : Nat} {m : Memory} {a : Nat} {v : Byte} (h : Memory.wfFrom lo m = true)
    (ha : a < Config.memorySize) (hlo : lo ≤ a) (hv : v ≠ Memory.unlisted) (hm : m.erase a = m) :
    Memory.wfFrom lo (m.insert a v) = true := by
  induction m generalizing lo with
  | nil => exact Memory.wfFrom_cons.2 ⟨hlo, ha, hv, rfl⟩
  | cons e m ih =>
    obtain ⟨k, w⟩ := e
    have hk := Memory.wfFrom_cons.1 h
    by_cases hlt : a < k
    · simp only [Memory.insert, hlt, if_true]
      exact Memory.wfFrom_cons.2 ⟨hlo, ha, hv, Memory.wfFrom_cons.2 ⟨by omega, hk.2⟩⟩
    · by_cases hka : k = a
      · have h1 := congrArg (fun l => Memory.read l a) hm
        simp [Memory.read_erase, Memory.read, hka] at h1
        exact absurd h1.symm hk.2.2.1
      · simp only [Memory.insert, hlt, if_false]
        refine Memory.wfFrom_cons.2 ⟨hk.1, hk.2.1, hk.2.2.1, ih hk.2.2.2 (by omega) ?_⟩
        simpa [Memory.erase, hka] using hm

/-- A write inside the memory keeps the canonical form. -/
theorem Memory.wf_write {m : Memory} {a : Nat} (v : Byte) (h : m.wf = true) (ha : a < Config.memorySize) :
    (m.write a v).wf = true := by
  unfold Memory.write
  split
  · exact Memory.wfFrom_erase a h
  · next hv =>
    exact Memory.wfFrom_insert (Memory.wfFrom_erase a h) ha (Nat.zero_le _) hv (Memory.erase_erase m a)

/-- A block write that ends inside the memory keeps the canonical form. -/
theorem Memory.wf_writeList {m : Memory} {a : Nat} (vs : List Byte) (h : m.wf = true)
    (ha : a + vs.length ≤ Config.memorySize) : (m.writeList a vs).wf = true := by
  induction vs generalizing m a with
  | nil => exact h
  | cons v vs ih =>
    simp only [List.length_cons] at ha
    exact ih (Memory.wf_write v h (by omega)) (by omega)

/-- What a block write leaves to be read. -/
theorem Memory.read_writeList (m : Memory) (a : Nat) (vs : List Byte) (b : Nat) :
    (m.writeList a vs).read b = if a ≤ b ∧ b < a + vs.length then vs.getD (b - a) Memory.unlisted else m.read b := by
  induction vs generalizing m a with
  | nil =>
    have h : ¬ (a ≤ b ∧ b < a + ([] : List Byte).length) := by
      simp only [List.length_nil]
      omega
    rw [if_neg h]
    rfl
  | cons v vs ih =>
    simp only [Memory.writeList, ih, Memory.read_write, List.length_cons]
    by_cases hab : a = b
    · subst hab
      have h1 : ¬ (a + 1 ≤ a ∧ a < a + 1 + vs.length) := by omega
      have h2 : a ≤ a ∧ a < a + (vs.length + 1) := by omega
      rw [if_neg h1, if_pos h2, if_pos rfl, Nat.sub_self]
      rfl
    · by_cases h1 : a + 1 ≤ b ∧ b < a + 1 + vs.length
      · have h2 : a ≤ b ∧ b < a + (vs.length + 1) := by omega
        obtain ⟨n, hn⟩ : ∃ n, b - a = n + 1 := ⟨b - a - 1, by omega⟩
        have h3 : b - (a + 1) = n := by omega
        rw [if_pos h1, if_pos h2, hn, h3]
        rfl
      · have h2 : ¬ (a ≤ b ∧ b < a + (vs.length + 1)) := by omega
        rw [if_neg h1, if_neg h2, if_neg hab]

@[simp] theorem Memory.wf_nil : Memory.wf [] = true := rfl

@[simp] theorem Memory.read_nil (a : Nat) : Memory.read [] a = Memory.unlisted := rfl

end Sys2Proof.Machine
end

