-- ==== Sys2Proof/Laws/State.lean ====
section
/-! SUPPORT. One lemma per field per shared update of the state (Machine/Ops.lean): what it becomes, or that it is kept.
All are true by rfl and all are simp lemmas, so that no proof unfolds an update. -/

namespace Sys2Proof.Machine

variable (s : State)

/-! ### `s.writeByte addr v` -/

@[simp] theorem State.writeByte_a (addr : Word) (v : Byte) : (s.writeByte addr v).a = s.a := rfl
@[simp] theorem State.writeByte_b (addr : Word) (v : Byte) : (s.writeByte addr v).b = s.b := rfl
@[simp] theorem State.writeByte_c (addr : Word) (v : Byte) : (s.writeByte addr v).c = s.c := rfl
@[simp] theorem State.writeByte_d (addr : Word) (v : Byte) : (s.writeByte addr v).d = s.d := rfl
@[simp] theorem State.writeByte_e (addr : Word) (v : Byte) : (s.writeByte addr v).e = s.e := rfl
@[simp] theorem State.writeByte_h (addr : Word) (v : Byte) : (s.writeByte addr v).h = s.h := rfl
@[simp] theorem State.writeByte_l (addr : Word) (v : Byte) : (s.writeByte addr v).l = s.l := rfl
@[simp] theorem State.writeByte_flags (addr : Word) (v : Byte) : (s.writeByte addr v).flags = s.flags := rfl
@[simp] theorem State.writeByte_sp (addr : Word) (v : Byte) : (s.writeByte addr v).sp = s.sp := rfl
@[simp] theorem State.writeByte_pc (addr : Word) (v : Byte) : (s.writeByte addr v).pc = s.pc := rfl
@[simp] theorem State.writeByte_ie (addr : Word) (v : Byte) : (s.writeByte addr v).ie = s.ie := rfl
@[simp] theorem State.writeByte_mem (addr : Word) (v : Byte) : (s.writeByte addr v).mem = s.mem.write addr.toNat v := rfl
@[simp] theorem State.writeByte_ports (addr : Word) (v : Byte) : (s.writeByte addr v).ports = s.ports := rfl
@[simp] theorem State.writeByte_shiftLo (addr : Word) (v : Byte) : (s.writeByte addr v).shiftLo = s.shiftLo := rfl
@[simp] theorem State.writeByte_shiftHi (addr : Word) (v : Byte) : (s.writeByte addr v).shiftHi = s.shiftHi := rfl
@[simp] theorem State.writeByte_shiftOffset (addr : Word) (v : Byte) : (s.writeByte addr v).shiftOffset = s.shiftOffset := rfl
@[simp] theorem State.writeByte_faulted (addr : Word) (v : Byte) : (s.writeByte addr v).faulted = s.faulted := rfl
@[simp] theorem State.writeByte_schedule (addr : Word) (v : Byte) : (s.writeByte addr v).schedule = s.schedule := rfl
@[simp] theorem State.writeByte_sound (addr : Word) (v : Byte) : (s.writeByte addr v).sound = s.sound := rfl

/-! ### `s.push16 w` -/

@[simp] theorem State.push16_a (w : Word) : (s.push16 w).a = s.a := rfl
@[simp] theorem State.push16_b (w : Word) : (s.push16 w).b = s.b := rfl
@[simp] theorem State.push16_c (w : Word) : (s.push16 w).c = s.c := rfl
@[simp] theorem State.push16_d (w : Word) : (s.push16 w).d = s.d := rfl
@[simp] theorem State.push16_e (w : Word) : (s.push16 w).e = s.e := rfl
@[simp] theorem State.push16_h (w : Word) : (s.push16 w).h = s.h := rfl
@[simp] theorem State.push16_l (w : Word) : (s.push16 w).l = s.l := rfl
@[simp] theorem State.push16_flags (w : Word) : (s.push16 w).flags = s.flags := rfl
@[simp] theorem State.push16_sp (w : Word) : (s.push16 w).sp = s.sp - 2#16 := rfl
@[simp] theorem State.push16_pc (w : Word) : (s.push16 w).pc = s.pc := rfl
@[simp] theorem State.push16_ie (w : Word) : (s.push16 w).ie = s.ie := rfl
@[simp] theorem State.push16_mem (w : Word) : (s.push16 w).mem = (s.mem.write (s.sp - 1#16).toNat (hi8 w)).write (s.sp - 2#16).toNat (lo8 w) := rfl
@[simp] theorem State.push16_ports (w : Word) : (s.push16 w).ports = s.ports := rfl
@[simp] theorem State.push16_shiftLo (w : Word) : (s.push16 w).shiftLo = s.shiftLo := rfl
@[simp] theorem State.push16_shiftHi (w : Word) : (s.push16 w).shiftHi = s.shiftHi := rfl
@[simp] theorem State.push16_shiftOffset (w : Word) : (s.push16 w).shiftOffset = s.shiftOffset := rfl
@[simp] theorem State.push16_faulted (w : Word) : (s.push16 w).faulted = s.faulted := rfl
@[simp] theorem State.push16_schedule (w : Word) : (s.push16 w).schedule = s.schedule := rfl
@[simp] theorem State.push16_sound (w : Word) : (s.push16 w).sound = s.sound := rfl

/-! ### `s.pop16.2` -/

@[simp] theorem State.pop16_state_a : (s.pop16.2).a = s.a := rfl
@[simp] theorem State.pop16_state_b : (s.pop16.2).b = s.b := rfl
@[simp] theorem State.pop16_state_c : (s.pop16.2).c = s.c := rfl
@[simp] theorem State.pop16_state_d : (s.pop16.2).d = s.d := rfl
@[simp] theorem State.pop16_state_e : (s.pop16.2).e = s.e := rfl
@[simp] theorem State.pop16_state_h : (s.pop16.2).h = s.h := rfl
@[simp] theorem State.pop16_state_l : (s.pop16.2).l = s.l := rfl
@[simp] theorem State.pop16_state_flags : (s.pop16.2).flags = s.flags := rfl
@[simp] theorem State.pop16_state_sp : (s.pop16.2).sp = s.sp + 2#16 := rfl
@[simp] theorem State.pop16_state_pc : (s.pop16.2).pc = s.pc := rfl
@[simp] theorem State.pop16_state_ie : (s.pop16.2).ie = s.ie := rfl
@[simp] theorem State.pop16_state_mem : (s.pop16.2).mem = s.mem := rfl
@[simp] theorem State.pop16_state_ports : (s.pop16.2).ports = s.ports := rfl
@[simp] theorem State.pop16_state_shiftLo : (s.pop16.2).shiftLo = s.shiftLo := rfl
@[simp] theorem State.pop16_state_shiftHi : (s.pop16.2).shiftHi = s.shiftHi := rfl
@[simp] theorem State.pop16_state_shiftOffset : (s.pop16.2).shiftOffset = s.shiftOffset := rfl
@[simp] theorem State.pop16_state_faulted : (s.pop16.2).faulted = s.faulted := rfl
@[simp] theorem State.pop16_state_schedule : (s.pop16.2).schedule = s.schedule := rfl
@[simp] theorem State.pop16_state_sound : (s.pop16.2).sound = s.sound := rfl

/-! ### `s.fetch8.2` -/

@[simp] theorem State.fetch8_state_a : (s.fetch8.2).a = s.a := rfl
@[simp] theorem State.fetch8_state_b : (s.fetch8.2).b = s.b := rfl
@[simp] theorem State.fetch8_state_c : (s.fetch8.2).c = s.c := rfl
@[simp] theorem State.fetch8_state_d : (s.fetch8.2).d = s.d := rfl
@[simp] theorem State.fetch8_state_e : (s.fetch8.2).e = s.e := rfl
@[simp] theorem State.fetch8_state_h : (s.fetch8.2).h = s.h := rfl
@[simp] theorem State.fetch8_state_l : (s.fetch8.2).l = s.l := rfl
@[simp] theorem State.fetch8_state_flags : (s.fetch8.2).flags = s.flags := rfl
@[simp] theorem State.fetch8_state_sp : (s.fetch8.2).sp = s.sp := rfl
@[simp] theorem State.fetch8_state_pc : (s.fetch8.2).pc = s.pc + 1#16 := rfl
@[simp] theorem State.fetch8_state_ie : (s.fetch8.2).ie = s.ie := rfl
@[simp] theorem State.fetch8_state_mem : (s.fetch8.2).mem = s.mem := rfl
@[simp] theorem State.fetch8_state_ports : (s.fetch8.2).ports = s.ports := rfl
@[simp] theorem State.fetch8_state_shiftLo : (s.fetch8.2).shiftLo = s.shiftLo := rfl
@[simp] theorem State.fetch8_state_shiftHi : (s.fetch8.2).shiftHi = s.shiftHi := rfl
@[simp] theorem State.fetch8_state_shiftOffset : (s.fetch8.2).shiftOffset = s.shiftOffset := rfl
@[simp] theorem State.fetch8_state_faulted : (s.fetch8.2).faulted = s.faulted := rfl
@[simp] theorem State.fetch8_state_schedule : (s.fetch8.2).schedule = s.schedule := rfl
@[simp] theorem State.fetch8_state_sound : (s.fetch8.2).sound = s.sound := rfl

/-! ### `s.returnFromStack` -/

@[simp] theorem State.returnFromStack_a : (s.returnFromStack).a = s.a := rfl
@[simp] theorem State.returnFromStack_b : (s.returnFromStack).b = s.b := rfl
@[simp] theorem State.returnFromStack_c : (s.returnFromStack).c = s.c := rfl
@[simp] theorem State.returnFromStack_d : (s.returnFromStack).d = s.d := rfl
@[simp] theorem State.returnFromStack_e : (s.returnFromStack).e = s.e := rfl
@[simp] theorem State.returnFromStack_h : (s.returnFromStack).h = s.h := rfl
@[simp] theorem State.returnFromStack_l : (s.returnFromStack).l = s.l := rfl
@[simp] theorem State.returnFromStack_flags : (s.returnFromStack).flags = s.flags := rfl
@[simp] theorem State.returnFromStack_sp : (s.returnFromStack).sp = s.sp + 2#16 := rfl
@[simp] theorem State.returnFromStack_pc : (s.returnFromStack).pc = s.readWord s.sp := rfl
@[simp] theorem State.returnFromStack_ie : (s.returnFromStack).ie = s.ie := rfl
@[simp] theorem State.returnFromStack_mem : (s.returnFromStack).mem = s.mem := rfl
@[simp] theorem State.returnFromStack_ports : (s.returnFromStack).ports = s.ports := rfl
@[simp] theorem State.returnFromStack_shiftLo : (s.returnFromStack).shiftLo = s.shiftLo := rfl
@[simp] theorem State.returnFromStack_shiftHi : (s.returnFromStack).shiftHi = s.shiftHi := rfl
@[simp] theorem State.returnFromStack_shiftOffset : (s.returnFromStack).shiftOffset = s.shiftOffset := rfl
@[simp] theorem State.returnFromStack_faulted : (s.returnFromStack).faulted = s.faulted := rfl
@[simp] theorem State.returnFromStack_schedule : (s.returnFromStack).schedule = s.schedule := rfl
@[simp] theorem State.returnFromStack_sound : (s.returnFromStack).sound = s.sound := rfl

/-! ### `s.enterInterrupt v` -/

@[simp] theorem State.enterInterrupt_a (v : Byte) : (s.enterInterrupt v).a = s.a := by rfl
@[simp] theorem State.enterInterrupt_b (v : Byte) : (s.enterInterrupt v).b = s.b := by rfl
@[simp] theorem State.enterInterrupt_c (v : Byte) : (s.enterInterrupt v).c = s.c := by rfl
@[simp] theorem State.enterInterrupt_d (v : Byte) : (s.enterInterrupt v).d = s.d := by rfl
@[simp] theorem State.enterInterrupt_e (v : Byte) : (s.enterInterrupt v).e = s.e := by rfl
@[simp] theorem State.enterInterrupt_h (v : Byte) : (s.enterInterrupt v).h = s.h := by rfl
@[simp] theorem State.enterInterrupt_l (v : Byte) : (s.enterInterrupt v).l = s.l := by rfl
@[simp] theorem State.enterInterrupt_flags (v : Byte) : (s.enterInterrupt v).flags = s.flags := by rfl
@[simp] theorem State.enterInterrupt_sp (v : Byte) : (s.enterInterrupt v).sp = s.sp - 2#16 := by rfl
@[simp] theorem State.enterInterrupt_pc (v : Byte) : (s.enterInterrupt v).pc = vectorAddress v := by rfl
@[simp] theorem State.enterInterrupt_ie (v : Byte) : (s.enterInterrupt v).ie = false := by rfl
@[simp] theorem State.enterInterrupt_mem (v : Byte) : (s.enterInterrupt v).mem = (s.push16 s.pc).mem := by rfl
@[simp] theorem State.enterInterrupt_ports (v : Byte) : (s.enterInterrupt v).ports = s.ports := by rfl
@[simp] theorem State.enterInterrupt_shiftLo (v : Byte) : (s.enterInterrupt v).shiftLo = s.shiftLo := by rfl
@[simp] theorem State.enterInterrupt_shiftHi (v : Byte) : (s.enterInterrupt v).shiftHi = s.shiftHi := by rfl
@[simp] theorem State.enterInterrupt_shiftOffset (v : Byte) : (s.enterInterrupt v).shiftOffset = s.shiftOffset := by rfl
@[simp] theorem State.enterInterrupt_faulted (v : Byte) : (s.enterInterrupt v).faulted = s.faulted := by rfl
@[simp] theorem State.enterInterrupt_schedule (v : Byte) : (s.enterInterrupt v).schedule = s.schedule := by rfl
@[simp] theorem State.enterInterrupt_sound (v : Byte) : (s.enterInterrupt v).sound = s.sound := by rfl

/-! ### `s.afterUnimplemented op` -/

@[simp] theorem State.afterUnimplemented_a (op : Byte) : (s.afterUnimplemented op).a = s.a := rfl
@[simp] theorem State.afterUnimplemented_b (op : Byte) : (s.afterUnimplemented op).b = s.b := rfl
@[simp] theorem State.afterUnimplemented_c (op : Byte) : (s.afterUnimplemented op).c = s.c := rfl
@[simp] theorem State.afterUnimplemented_d (op : Byte) : (s.afterUnimplemented op).d = s.d := rfl
@[simp] theorem State.afterUnimplemented_e (op : Byte) : (s.afterUnimplemented op).e = s.e := rfl
@[simp] theorem State.afterUnimplemented_h (op : Byte) : (s.afterUnimplemented op).h = s.h := rfl
@[simp] theorem State.afterUnimplemented_l (op : Byte) : (s.afterUnimplemented op).l = s.l := rfl
@[simp] theorem State.afterUnimplemented_flags (op : Byte) : (s.afterUnimplemented op).flags = s.flags := rfl
@[simp] theorem State.afterUnimplemented_sp (op : Byte) : (s.afterUnimplemented op).sp = s.sp := rfl
@[simp] theorem State.afterUnimplemented_pc (op : Byte) : (s.afterUnimplemented op).pc = s.pc + 1#16 := rfl
@[simp] theorem State.afterUnimplemented_ie (op : Byte) : (s.afterUnimplemented op).ie = s.ie := rfl
@[simp] theorem State.afterUnimplemented_mem (op : Byte) : (s.afterUnimplemented op).mem = s.mem := rfl
@[simp] theorem State.afterUnimplemented_ports (op : Byte) : (s.afterUnimplemented op).ports = s.ports := rfl
@[simp] theorem State.afterUnimplemented_shiftLo (op : Byte) : (s.afterUnimplemented op).shiftLo = s.shiftLo := rfl
@[simp] theorem State.afterUnimplemented_shiftHi (op : Byte) : (s.afterUnimplemented op).shiftHi = s.shiftHi := rfl
@[simp] theorem State.afterUnimplemented_shiftOffset (op : Byte) : (s.afterUnimplemented op).shiftOffset = s.shiftOffset := rfl
@[simp] theorem State.afterUnimplemented_faulted (op : Byte) : (s.afterUnimplemented op).faulted = .yes s.pc op := rfl
@[simp] theorem State.afterUnimplemented_schedule (op : Byte) : (s.afterUnimplemented op).schedule = s.schedule := rfl
@[simp] theorem State.afterUnimplemented_sound (op : Byte) : (s.afterUnimplemented op).sound = s.sound := rfl

/-! ### The values the reading operations give -/

@[simp] theorem State.pop16_value : s.pop16.1 = s.readWord s.sp := rfl

@[simp] theorem State.fetch8_value : s.fetch8.1 = s.readByte s.pc := rfl

end Sys2Proof.Machine
end

