-- ==== Sys2Proof/Laws/Ops.lean ====
section
/-! SUPPORT. One spec lemma per shared operation over memory and stack (Machine/Ops.lean). -/

namespace Sys2Proof.Machine

theorem word_lt_memorySize (a : Word) : a.toNat < Config.memorySize := a.isLt

/-- A read depends on the memory alone. -/
theorem State.readByte_congr {s t : State} (h : t.mem = s.mem) (a : Word) : t.readByte a = s.readByte a := by
  unfold State.readByte
  rw [h]

theorem State.readByte_writeByte (s : State) (a : Word) (v : Byte) (x : Word) :
    (s.writeByte a v).readByte x = if a = x then v else s.readByte x := by
  unfold State.readByte State.writeByte
  simp only [Memory.read_write, BitVec.toNat_inj]

@[simp] theorem State.readByte_writeByte_same (s : State) (a : Word) (v : Byte) :
    (s.writeByte a v).readByte a = v := by simp [State.readByte_writeByte]

theorem State.wf_writeByte {s : State} (a : Word) (v : Byte) (h : s.mem.wf = true) :
    (s.writeByte a v).mem.wf = true := Memory.wf_write v h (word_lt_memorySize a)

theorem word_sub_one_ne_sub_two (a : Word) : a - 1#16 ≠ a - 2#16 := by
  intro h
  have := congrArg BitVec.toNat h
  simp [BitVec.toNat_sub] at this
  omega

theorem word_ne_add_one (a : Word) : a ≠ a + 1#16 := by
  intro h
  have := congrArg BitVec.toNat h
  simp [BitVec.toNat_add] at this
  omega

/-- Everything a push leaves to be read: the two bytes of the word, and every other byte as it was. -/
theorem State.readByte_push16 (s : State) (w x : Word) :
    (s.push16 w).readByte x = if s.sp - 2#16 = x then lo8 w else if s.sp - 1#16 = x then hi8 w else s.readByte x := by
  have h : (s.push16 w).readByte x = ((s.writeByte (s.sp - 1#16) (hi8 w)).writeByte (s.sp - 2#16) (lo8 w)).readByte x :=
    State.readByte_congr rfl x
  rw [h, State.readByte_writeByte, State.readByte_writeByte]

/-- After a push the word stands at SP, little-endian (41_control.md R150). -/
theorem State.readWord_push16 (s : State) (w : Word) : (s.push16 w).readWord (s.push16 w).sp = w := by
  have h1 : s.sp - 2#16 + 1#16 = s.sp - 1#16 := by
    apply BitVec.eq_of_toNat_eq
    simp [BitVec.toNat_add, BitVec.toNat_sub]
    omega
  have h2 : ¬ s.sp - 2#16 = s.sp - 1#16 := fun h => word_sub_one_ne_sub_two s.sp h.symm
  simp [State.readWord, State.readByte_push16, h1, h2]

theorem State.wf_push16 {s : State} (w : Word) (h : s.mem.wf = true) : (s.push16 w).mem.wf = true :=
  Memory.wf_write _ (Memory.wf_write _ h (word_lt_memorySize _)) (word_lt_memorySize _)

theorem State.wf_writeWord {s : State} (a w : Word) (h : s.mem.wf = true) : (s.writeWord a w).mem.wf = true :=
  State.wf_writeByte _ _ (State.wf_writeByte _ _ h)

theorem State.wf_enterInterrupt {s : State} (v : Byte) (h : s.mem.wf = true) : (s.enterInterrupt v).mem.wf = true :=
  State.wf_push16 s.pc h

end Sys2Proof.Machine
end

