-- ==== Sys2Proof/Laws/Operands.lean ====
section
/-! SUPPORT. What writing an operand changes and keeps (Machine/Operands.lean). -/

namespace Sys2Proof.Machine

/-- Writing a register form changes one register, or the byte at HL, and nothing of the control state. -/
theorem State.writeReg_control (s : State) (r : Reg) (v : Byte) :
    (s.writeReg r v).flags = s.flags ∧ (s.writeReg r v).sp = s.sp ∧ (s.writeReg r v).pc = s.pc ∧
    (s.writeReg r v).ie = s.ie ∧ (s.writeReg r v).ports = s.ports ∧ (s.writeReg r v).faulted = s.faulted ∧
    (s.writeReg r v).schedule = s.schedule ∧ (s.writeReg r v).sound = s.sound := by
  cases r <;> exact ⟨rfl, rfl, rfl, rfl, rfl, rfl, rfl, rfl⟩

/-- Writing a register form other than M leaves memory alone. -/
theorem State.writeReg_mem (s : State) {r : Reg} (v : Byte) (h : r ≠ .m) : (s.writeReg r v).mem = s.mem := by
  cases r <;> first | rfl | exact absurd rfl h

theorem State.wf_writeReg {s : State} (r : Reg) (v : Byte) (h : s.mem.wf = true) :
    (s.writeReg r v).mem.wf = true := by
  cases r <;> first | exact h | exact State.wf_writeByte _ _ h

@[simp] theorem State.writePair_mem (s : State) (p : Pair) (w : Word) : (s.writePair p w).mem = s.mem := by
  cases p <;> rfl

@[simp] theorem State.writePair_sound (s : State) (p : Pair) (w : Word) : (s.writePair p w).sound = s.sound := by
  cases p <;> rfl

@[simp] theorem State.writePair_faulted (s : State) (p : Pair) (w : Word) :
    (s.writePair p w).faulted = s.faulted := by
  cases p <;> rfl

@[simp] theorem State.readPair_writePair (s : State) (p : Pair) (w : Word) : (s.writePair p w).readPair p = w := by
  cases p <;> simp [State.readPair, State.writePair, State.bc, State.de, State.hl]

/-- A stack pair read back after it was written is the word, for PSW up to the three reserved bits (10_state.md R30). -/
theorem State.readStackPair_writeStackPair (s : State) {p : StackPair} (w : Word) (h : p ≠ .psw) :
    (s.writeStackPair p w).readStackPair p = w := by
  cases p <;>
    first
    | exact absurd rfl h
    | simp [State.readStackPair, State.writeStackPair, State.writePair, State.bc, State.de, State.hl]

@[simp] theorem State.writeStackPair_mem (s : State) (p : StackPair) (w : Word) :
    (s.writeStackPair p w).mem = s.mem := by
  cases p <;> rfl

@[simp] theorem State.writeStackPair_sp (s : State) (p : StackPair) (w : Word) :
    (s.writeStackPair p w).sp = s.sp := by
  cases p <;> rfl

end Sys2Proof.Machine
end

