-- ==== Sys2Proof/Laws/Alu.lean ====
section
/-! SUPPORT. What each ALU primitive can change (Machine/Alu.lean): A and the flags, the register of INR and DCR, HL for
DAD; and the numbers of ADD. -/

namespace Sys2Proof.Machine

/-- `t` is `s` but for A and the flags. -/
abbrev OnlyAccAndFlags (s t : State) : Prop := t = { s with a := t.a, flags := t.flags }

theorem State.aluAdd_frame (s : State) (v : Byte) (cin : Bool) : OnlyAccAndFlags s (s.aluAdd v cin) := rfl

theorem State.aluSub_frame (s : State) (v : Byte) (cin : Bool) : OnlyAccAndFlags s (s.aluSub v cin) := rfl

theorem State.aluAnd_frame (s : State) (v : Byte) : OnlyAccAndFlags s (s.aluAnd v) := rfl

theorem State.aluOr_frame (s : State) (v : Byte) : OnlyAccAndFlags s (s.aluOr v) := rfl

theorem State.aluXor_frame (s : State) (v : Byte) : OnlyAccAndFlags s (s.aluXor v) := rfl

theorem State.aluCmp_frame (s : State) (v : Byte) : OnlyAccAndFlags s (s.aluCmp v) := rfl

theorem State.aluDaa_frame (s : State) : OnlyAccAndFlags s s.aluDaa := rfl

theorem State.aluRlc_frame (s : State) : OnlyAccAndFlags s s.aluRlc := rfl

theorem State.aluRrc_frame (s : State) : OnlyAccAndFlags s s.aluRrc := rfl

theorem State.aluRal_frame (s : State) : OnlyAccAndFlags s s.aluRal := rfl

theorem State.aluRar_frame (s : State) : OnlyAccAndFlags s s.aluRar := rfl

theorem State.aluCma_frame (s : State) : OnlyAccAndFlags s s.aluCma := rfl

theorem State.aluCmc_frame (s : State) : OnlyAccAndFlags s s.aluCmc := rfl

theorem State.aluStc_frame (s : State) : OnlyAccAndFlags s s.aluStc := rfl

/-- DAD changes H, L and CY. -/
theorem State.aluDad_frame (s : State) (v : Word) :
    s.aluDad v =
      { s with h := (s.aluDad v).h, l := (s.aluDad v).l, flags := { s.flags with cy := (s.aluDad v).flags.cy } } := rfl

/-- DCR changes its operand, then Z, S and P. -/
theorem State.aluDcr_eq (s : State) (r : Reg) :
    s.aluDcr r = { s.writeReg r (s.readReg r - 1#8) with flags := s.flags.setZSP (s.readReg r - 1#8) } := rfl

/-- INR changes its operand, then Z, S and P. -/
theorem State.aluInr_eq (s : State) (r : Reg) :
    s.aluInr r = { s.writeReg r (s.readReg r + 1#8) with flags := s.flags.setZSP (s.readReg r + 1#8) } := rfl

theorem carry_iff (n : Nat) : carry n = true ↔ 256 ≤ n := by
  simp [carry]
  omega

theorem auxCarry_iff (a v : Byte) (cin : Bool) :
    auxCarry a v cin = true ↔ 16 ≤ a.toNat % 16 + v.toNat % 16 + cin.toNat := by
  unfold auxCarry lowNibble
  rw [decide_eq_true_iff]
  omega

end Sys2Proof.Machine
end

