-- ==== Sys2Proof/Laws/Control.lean ====
section
/-! SUPPORT. What a conditional jump and a conditional return can do (Machine/Control.lean). -/

namespace Sys2Proof.Machine

/-- A conditional jump changes PC alone. -/
theorem State.jumpIf_eq (s : State) (k : Cond) (adr : Word) :
    s.jumpIf k adr = { s with pc := if condHolds s.flags k then adr else s.pc } := by
  unfold State.jumpIf
  cases condHolds s.flags k <;> rfl

/-- A return changes PC and SP alone. -/
theorem State.returnFromStack_eq (s : State) :
    s.returnFromStack = { s with pc := s.readWord s.sp, sp := s.sp + 2#16 } := rfl

/-- A conditional return changes PC and SP alone, and nothing when it is not taken. -/
theorem State.returnIf_eq (s : State) (k : Cond) :
    s.returnIf k =
      if condHolds s.flags k then { s with pc := s.readWord s.sp, sp := s.sp + 2#16 } else s := rfl

end Sys2Proof.Machine
end

