-- ==== Sys2Proof/Laws/Io.lean ====
section
/-! SUPPORT. What a port write and OUT can do (Machine/Io.lean). -/

namespace Sys2Proof.Machine

/-- A port write changes the port array alone, and there one entry. -/
theorem State.writePort_frame (s : State) (p : Nat) (v : Byte) :
    s.writePort p v = { s with ports := (s.writePort p v).ports } := by
  unfold State.writePort
  split <;> rfl

theorem State.writePort_ports (s : State) (p : Nat) (v : Byte) (k : Nat) (hk : k < 9) :
    (s.writePort p v).ports[k] = if p = k then v else s.ports[k] := by
  unfold State.writePort
  split
  · simp [Vector.getElem_set]
  · next h =>
    have : p ≠ k := by omega
    simp [this]

/-- OUT does one of five things (45_io.md R221). -/
theorem State.ioOut_cases (s : State) (p v : Byte) :
    (p = 0x02#8 ∧ s.ioOut p v = { s with shiftOffset := v.setWidth 3 }) ∨
    (p = 0x04#8 ∧ s.ioOut p v = { s with shiftLo := s.shiftHi, shiftHi := v }) ∨
    ((p = 0x03#8 ∨ p = 0x05#8) ∧ s.ioOut p v = { s with sound := s.sound ++ [⟨p, v⟩] }) ∨
    ((p ≠ 0x02#8 ∧ p ≠ 0x03#8 ∧ p ≠ 0x04#8 ∧ p ≠ 0x05#8) ∧ s.ioOut p v = s.writePort p.toNat v) := by
  unfold State.ioOut
  by_cases h2 : p = 0x02#8
  · exact .inl ⟨h2, if_pos h2⟩
  by_cases h4 : p = 0x04#8
  · exact .inr (.inl ⟨h4, by rw [if_neg h2, if_pos h4]⟩)
  by_cases h35 : p = 0x03#8 ∨ p = 0x05#8
  · exact .inr (.inr (.inl ⟨h35, by rw [if_neg h2, if_neg h4, if_pos h35]⟩))
  · refine .inr (.inr (.inr ⟨⟨h2, fun h => h35 (.inl h), h4, fun h => h35 (.inr h)⟩, ?_⟩))
    rw [if_neg h2, if_neg h4, if_neg h35]

/-- OUT keeps every register, every flag, IE, memory and the fault status. -/
theorem State.ioOut_frame (s : State) (p v : Byte) :
    s.ioOut p v = { s with
      ports := (s.ioOut p v).ports, shiftLo := (s.ioOut p v).shiftLo, shiftHi := (s.ioOut p v).shiftHi,
      shiftOffset := (s.ioOut p v).shiftOffset, sound := (s.ioOut p v).sound } := by
  rcases s.ioOut_cases p v with ⟨-, h⟩ | ⟨-, h⟩ | ⟨-, h⟩ | ⟨-, h⟩ <;> rw [h]
  unfold State.writePort
  split <;> rfl

end Sys2Proof.Machine
end

