-- ==== Sys2Proof/Laws/Exec.lean ====
section
/-! SUPPORT. What the meaning of any instruction can do to memory and to the sound trace (Machine/Dispatch.lean). -/

namespace Sys2Proof.Machine

/-- Memory after an instruction is memory before it, or memory with one byte stored, or memory with one word pushed. -/
theorem exec_mem_cases {i : Instr} {s t : State} (h : exec i s = .next t) :
    t.mem = s.mem ∨ (∃ a v, t.mem = (s.writeByte a v).mem) ∨ ∃ w, t.mem = (s.push16 w).mem := by
  cases i
  case sta adr => cases h; exact .inr (.inl ⟨adr, s.a, rfl⟩)
  case mviM d8 => cases h; exact .inr (.inl ⟨s.hl, d8, rfl⟩)
  case movMA => cases h; exact .inr (.inl ⟨s.hl, s.a, rfl⟩)
  case call adr => cases h; exact .inr (.inr ⟨s.pc, rfl⟩)
  case pushB => cases h; exact .inr (.inr ⟨s.bc, rfl⟩)
  case pushD => cases h; exact .inr (.inr ⟨s.de, rfl⟩)
  case pushH => cases h; exact .inr (.inr ⟨s.hl, rfl⟩)
  case pushPSW => cases h; exact .inr (.inr ⟨s.psw, rfl⟩)
  case jnz adr => cases h; rw [State.jumpIf_eq]; exact .inl rfl
  case jz adr => cases h; rw [State.jumpIf_eq]; exact .inl rfl
  case jnc adr => cases h; rw [State.jumpIf_eq]; exact .inl rfl
  case jc adr => cases h; rw [State.jumpIf_eq]; exact .inl rfl
  case rnz => cases h; rw [State.returnIf_eq]; split <;> exact .inl rfl
  case rz => cases h; rw [State.returnIf_eq]; split <;> exact .inl rfl
  case out port => cases h; rw [State.ioOut_frame]; exact .inl rfl
  all_goals cases h; exact .inl rfl

/-- The sound trace after an instruction is the trace before it, but for OUT 3 and OUT 5, which add one event. -/
theorem exec_sound_cases {i : Instr} {s t : State} (h : exec i s = .next t) :
    t.sound = s.sound ∨
      ∃ p, i = .out p ∧ (p = 0x03#8 ∨ p = 0x05#8) ∧ t.sound = s.sound ++ [⟨p, s.a⟩] := by
  cases i
  case jnz adr => cases h; rw [State.jumpIf_eq]; exact .inl rfl
  case jz adr => cases h; rw [State.jumpIf_eq]; exact .inl rfl
  case jnc adr => cases h; rw [State.jumpIf_eq]; exact .inl rfl
  case jc adr => cases h; rw [State.jumpIf_eq]; exact .inl rfl
  case rnz => cases h; rw [State.returnIf_eq]; split <;> exact .inl rfl
  case rz => cases h; rw [State.returnIf_eq]; split <;> exact .inl rfl
  case out port =>
    cases h
    rcases s.ioOut_cases port s.a with ⟨-, h⟩ | ⟨-, h⟩ | ⟨hp, h⟩ | ⟨-, h⟩ <;> rw [h]
    · exact .inl rfl
    · exact .inl rfl
    · exact .inr ⟨port, rfl, hp, rfl⟩
    · rw [State.writePort_frame]; exact .inl rfl
  all_goals cases h; exact .inl rfl

end Sys2Proof.Machine
end

