-- ==== Sys2Proof/Laws/Fetch.lean ====
section
/-! SUPPORT. Fetching agrees with decoding the bytes at PC (Machine/Fetch.lean, Decode.lean). -/

namespace Sys2Proof.Machine

theorem State.fetch16_eq (s : State) :
    s.fetch16 = (pair (s.readByte (s.pc + 1#16)) (s.readByte s.pc), { s with pc := s.pc + 2#16 }) := by
  have h : s.pc + 1#16 + 1#16 = s.pc + 2#16 := by
    apply BitVec.eq_of_toNat_eq
    simp [BitVec.toNat_add]
  simp only [State.fetch16, State.fetch8, h]
  rfl

/-- The fetch traps exactly on an opcode byte the table does not list (30_encoding.md R97). -/
theorem State.fetchInstr_error {s : State} (h : decodeOpcode (s.readByte s.pc) = none) :
    s.fetchInstr = .error (s.readByte s.pc) := by
  simp [State.fetchInstr, State.fetch8, h]

/-- The fetch gives what the decoder reads from the bytes at PC, with PC past the bytes it consumed. -/
theorem State.fetchInstr_ok {s : State} {i : Instr} {rest : List Byte} (h : decode s.bytesAtPc = .ok (i, rest)) :
    s.fetchInstr = .ok (i, { s with pc := s.pc + BitVec.ofNat 16 (3 - rest.length) }) := by
  have e : s.pc + 1#16 + 2#16 = s.pc + 3#16 := by
    apply BitVec.eq_of_toNat_eq
    simp [BitVec.toNat_add]
  have e1 : s.pc + 1#16 + 1#16 = s.pc + 2#16 := by
    apply BitVec.eq_of_toNat_eq
    simp [BitVec.toNat_add]
  unfold State.fetchInstr
  simp only [State.bytesAtPc, decode, State.fetch8] at *
  cases hd : decodeOpcode (s.readByte s.pc) with
  | none => rw [hd] at h; cases h
  | some f =>
    rw [hd] at h
    cases f with
    | f1 j => cases h; rfl
    | f2 make => cases h; simp [State.readByte, e1]
    | f3 make =>
      cases h
      simp [State.fetch16_eq, State.readByte, e, e1]

end Sys2Proof.Machine
end

