-- ==== Sys2Proof/WellFormed.lean ====
section
/-! DEFINITION. Which terms the interfaces of the machine admit. -/

namespace Sys2Proof

/-- Every term of `Instr` is an instruction: its operands are bit vectors of exactly the width of their fields
(30_encoding.md R91), every value of which the spec admits, and there is no reserved operand value (R98). -/
abbrev Instr.wellFormed (_ : Instr) : Bool := true

/-- A move the host has (60_exceptions.md R247, D14; 45_io.md R228, D23). Any other is refused by name. -/
def HostMove.wellFormed : HostMove → Bool
  | .interrupt v => Machine.vectorOk v
  | .setInputPort i _ => Machine.portIndexOk i
  | .orInputBit i _ => Machine.portIndexOk i
  | .clearInputBit i _ => Machine.portIndexOk i

/-- A ROM image `load_rom` accepts (70_reset_and_hazards.md R271, D24). -/
def romWellFormed (rom : List Byte) : Bool := Machine.romLengthOk rom.length

end Sys2Proof
end

