-- ==== Sys2Proof/Laws/Interface.lean ====
section
/-! SUPPORT. What a move of the host and a ROM load can do (Machine/Interface.lean). -/

namespace Sys2Proof.Machine

/-- If a host move answers a next state, it entered an interrupt, dropped a request, or wrote the port array. -/
theorem hostMove_cases {m : HostMove} {s t : State} (h : hostMove m s = .next t) :
    (∃ v, m = .interrupt v ∧ s.ie = true ∧ s.faulted = .no ∧ t = s.enterInterrupt v) ∨ t = s ∨
    ∃ p v, p < 9 ∧ t = s.writePort p v := by
  cases m with
  | interrupt v =>
    simp only [hostMove, injectInterrupt] at h
    split at h
    · by_cases ha : s.acceptsInterrupt = true
      · simp only [ha, if_true] at h
        cases h
        have : s.ie = true ∧ s.faulted = .no := by simpa [State.acceptsInterrupt] using ha
        exact .inl ⟨v, rfl, this.1, this.2, rfl⟩
      · simp only [ha] at h
        cases h
        exact .inr (.inl rfl)
    · cases h
  | setInputPort i b =>
    simp only [hostMove, setInputPort] at h
    split at h
    · next hi => cases h; exact .inr (.inr ⟨i, _, by simpa [portIndexOk] using hi, rfl⟩)
    · cases h
  | orInputBit i b =>
    simp only [hostMove, orInputBit] at h
    split at h
    · next hi => cases h; exact .inr (.inr ⟨i, _, by simpa [portIndexOk] using hi, rfl⟩)
    · cases h
  | clearInputBit i b =>
    simp only [hostMove, clearInputBit] at h
    split at h
    · next hi => cases h; exact .inr (.inr ⟨i, _, by simpa [portIndexOk] using hi, rfl⟩)
    · cases h

/-- A well-formed move of the host answers a next state; any other is refused. -/
theorem hostMove_refused {m : HostMove} (s : State) (h : m.wellFormed = false) : ∃ r, hostMove m s = .refused r := by
  cases m <;> simp only [HostMove.wellFormed] at h <;>
    simp [hostMove, injectInterrupt, setInputPort, orInputBit, clearInputBit, h]

theorem State.nextTurn_state (s : State) : s.nextTurn.2 = { s with schedule := s.schedule.tail } := by
  unfold State.nextTurn
  split
  · next h => rw [h, List.tail_nil, ← h]
  · next t rest h => rw [h]; rfl

/-- Whose turn it is depends on the schedule alone: its first turn, or the core's when none is left (log 2). -/
theorem State.nextTurn_turn (s : State) : s.nextTurn.1 = s.schedule.headD .core := by
  unfold State.nextTurn
  split
  · next h => rw [h]; rfl
  · next t rest h => rw [h]; rfl

/-- If a ROM load answers a next state, the image fits and memory alone changed. -/
theorem loadRom_next {rom : List Byte} {s t : State} (h : loadRom rom s = .next t) :
    rom.length ≤ Config.memorySize ∧ t = { s with mem := s.mem.writeList 0 rom } := by
  unfold loadRom at h
  split at h
  · next hl => cases h; exact ⟨by simpa [romLengthOk] using hl, rfl⟩
  · cases h

end Sys2Proof.Machine
end

