-- ==== Sys2Proof/Laws/PerInstr.lean ====
section
/-! SUPPORT. The family `Row` of facts about every instruction as syntax: its opcode byte selects, in the decoder's table,
the row of its own format, and rebuilding it from that row and its immediates gives it back (spec/30_encoding.md R91,
R95, R96). -/

namespace Sys2Proof.Laws.Row

/-- The row of the table an instruction's opcode selects rebuilds the instruction. -/
def Statement (i : Instr) : Prop :=
  (∃ j, decodeOpcode i.opcode = some (.f1 j) ∧ j = i ∧ i.immediates = []) ∨
  (∃ make v, decodeOpcode i.opcode = some (.f2 make) ∧ make v = i ∧ i.immediates = [v]) ∨
  (∃ make w, decodeOpcode i.opcode = some (.f3 make) ∧ make w = i ∧ i.immediates = wordBytes w)

theorem nop : Statement .nop := .inl ⟨_, rfl, rfl, rfl⟩

theorem lxiB (w : Word) : Statement (.lxiB w) := .inr (.inr ⟨_, w, rfl, rfl, rfl⟩)

theorem dcrB : Statement .dcrB := .inl ⟨_, rfl, rfl, rfl⟩

theorem mviB (v : Byte) : Statement (.mviB v) := .inr (.inl ⟨_, v, rfl, rfl, rfl⟩)

theorem dadB : Statement .dadB := .inl ⟨_, rfl, rfl, rfl⟩

theorem dcrC : Statement .dcrC := .inl ⟨_, rfl, rfl, rfl⟩

theorem mviC (v : Byte) : Statement (.mviC v) := .inr (.inl ⟨_, v, rfl, rfl, rfl⟩)

theorem rrc : Statement .rrc := .inl ⟨_, rfl, rfl, rfl⟩

theorem lxiD (w : Word) : Statement (.lxiD w) := .inr (.inr ⟨_, w, rfl, rfl, rfl⟩)

theorem inxD : Statement .inxD := .inl ⟨_, rfl, rfl, rfl⟩

theorem dadD : Statement .dadD := .inl ⟨_, rfl, rfl, rfl⟩

theorem ldaxD : Statement .ldaxD := .inl ⟨_, rfl, rfl, rfl⟩

theorem lxiH (w : Word) : Statement (.lxiH w) := .inr (.inr ⟨_, w, rfl, rfl, rfl⟩)

theorem inxH : Statement .inxH := .inl ⟨_, rfl, rfl, rfl⟩

theorem mviH (v : Byte) : Statement (.mviH v) := .inr (.inl ⟨_, v, rfl, rfl, rfl⟩)

theorem daa : Statement .daa := .inl ⟨_, rfl, rfl, rfl⟩

theorem dadH : Statement .dadH := .inl ⟨_, rfl, rfl, rfl⟩

theorem lxiSP (w : Word) : Statement (.lxiSP w) := .inr (.inr ⟨_, w, rfl, rfl, rfl⟩)

theorem sta (w : Word) : Statement (.sta w) := .inr (.inr ⟨_, w, rfl, rfl, rfl⟩)

theorem mviM (v : Byte) : Statement (.mviM v) := .inr (.inl ⟨_, v, rfl, rfl, rfl⟩)

theorem lda (w : Word) : Statement (.lda w) := .inr (.inr ⟨_, w, rfl, rfl, rfl⟩)

theorem dcrA : Statement .dcrA := .inl ⟨_, rfl, rfl, rfl⟩

theorem mviA (v : Byte) : Statement (.mviA v) := .inr (.inl ⟨_, v, rfl, rfl, rfl⟩)

theorem movDM : Statement .movDM := .inl ⟨_, rfl, rfl, rfl⟩

theorem movEM : Statement .movEM := .inl ⟨_, rfl, rfl, rfl⟩

theorem movHM : Statement .movHM := .inl ⟨_, rfl, rfl, rfl⟩

theorem movLA : Statement .movLA := .inl ⟨_, rfl, rfl, rfl⟩

theorem movMA : Statement .movMA := .inl ⟨_, rfl, rfl, rfl⟩

theorem movAD : Statement .movAD := .inl ⟨_, rfl, rfl, rfl⟩

theorem movAE : Statement .movAE := .inl ⟨_, rfl, rfl, rfl⟩

theorem movAH : Statement .movAH := .inl ⟨_, rfl, rfl, rfl⟩

theorem movAL : Statement .movAL := .inl ⟨_, rfl, rfl, rfl⟩

theorem movAM : Statement .movAM := .inl ⟨_, rfl, rfl, rfl⟩

theorem anaA : Statement .anaA := .inl ⟨_, rfl, rfl, rfl⟩

theorem xraA : Statement .xraA := .inl ⟨_, rfl, rfl, rfl⟩

theorem rnz : Statement .rnz := .inl ⟨_, rfl, rfl, rfl⟩

theorem popB : Statement .popB := .inl ⟨_, rfl, rfl, rfl⟩

theorem jnz (w : Word) : Statement (.jnz w) := .inr (.inr ⟨_, w, rfl, rfl, rfl⟩)

theorem jmp (w : Word) : Statement (.jmp w) := .inr (.inr ⟨_, w, rfl, rfl, rfl⟩)

theorem pushB : Statement .pushB := .inl ⟨_, rfl, rfl, rfl⟩

theorem adi (v : Byte) : Statement (.adi v) := .inr (.inl ⟨_, v, rfl, rfl, rfl⟩)

theorem rz : Statement .rz := .inl ⟨_, rfl, rfl, rfl⟩

theorem ret : Statement .ret := .inl ⟨_, rfl, rfl, rfl⟩

theorem jz (w : Word) : Statement (.jz w) := .inr (.inr ⟨_, w, rfl, rfl, rfl⟩)

theorem call (w : Word) : Statement (.call w) := .inr (.inr ⟨_, w, rfl, rfl, rfl⟩)

theorem popD : Statement .popD := .inl ⟨_, rfl, rfl, rfl⟩

theorem jnc (w : Word) : Statement (.jnc w) := .inr (.inr ⟨_, w, rfl, rfl, rfl⟩)

theorem out (v : Byte) : Statement (.out v) := .inr (.inl ⟨_, v, rfl, rfl, rfl⟩)

theorem pushD : Statement .pushD := .inl ⟨_, rfl, rfl, rfl⟩

theorem jc (w : Word) : Statement (.jc w) := .inr (.inr ⟨_, w, rfl, rfl, rfl⟩)

theorem inp (v : Byte) : Statement (.inp v) := .inr (.inl ⟨_, v, rfl, rfl, rfl⟩)

theorem popH : Statement .popH := .inl ⟨_, rfl, rfl, rfl⟩

theorem pushH : Statement .pushH := .inl ⟨_, rfl, rfl, rfl⟩

theorem ani (v : Byte) : Statement (.ani v) := .inr (.inl ⟨_, v, rfl, rfl, rfl⟩)

theorem xchg : Statement .xchg := .inl ⟨_, rfl, rfl, rfl⟩

theorem popPSW : Statement .popPSW := .inl ⟨_, rfl, rfl, rfl⟩

theorem di : Statement .di := .inl ⟨_, rfl, rfl, rfl⟩

theorem pushPSW : Statement .pushPSW := .inl ⟨_, rfl, rfl, rfl⟩

theorem ei : Statement .ei := .inl ⟨_, rfl, rfl, rfl⟩

theorem cpi (v : Byte) : Statement (.cpi v) := .inr (.inl ⟨_, v, rfl, rfl, rfl⟩)

end Sys2Proof.Laws.Row
end

