-- ==== Sys2Proof/Laws/Step.lean ====
section
/-! SUPPORT. Everything a step can do (Machine/Step.lean). -/

namespace Sys2Proof.Machine

/-- If a step answers a next state, the core was not faulted, and either it ran the instruction it fetched or the host
made the move on the schedule. -/
theorem step_cases {s t : State} (h : step s = .next t) :
    s.faulted = .no ∧
    ((s.nextTurn.1 = .core ∧ ∃ i s2, s.nextTurn.2.fetchInstr = .ok (i, s2) ∧ exec i s2 = .next t) ∨
      ∃ m, s.nextTurn.1 = .host m ∧ hostMove m s.nextTurn.2 = .next t) := by
  unfold step at h
  split at h
  · cases h
  · next hf =>
    refine ⟨hf, ?_⟩
    cases hn : s.nextTurn with
    | mk turn s1 =>
      rw [hn] at h
      cases turn with
      | core =>
        refine .inl ⟨rfl, ?_⟩
        simp only [coreStep] at h
        cases hi : s1.fetchInstr with
        | error op => rw [hi] at h; cases h
        | ok r => rw [hi] at h; exact ⟨r.1, r.2, rfl, h⟩
      | host m => exact .inr ⟨m, rfl, h⟩

/-- A fetch keeps everything but PC. -/
theorem State.fetchInstr_frame {s s2 : State} {i : Instr} (h : s.fetchInstr = .ok (i, s2)) :
    s2 = { s with pc := s2.pc } := by
  unfold State.fetchInstr at h
  simp only [State.fetch8, State.fetch16] at h
  split at h <;> cases h <;> rfl

end Sys2Proof.Machine
end

