-- ==== Sys2Proof/Tests/Slice0.lean ====
section
/-! SUPPORT. Tests of single steps, with the expected values of spec/95_test_vectors.md (vector numbers in the
comments), the refusals of ill-formed terms, and a witness for the hypotheses of every statement. -/

namespace Sys2Proof.Tests

open Machine

/-- The start state of the vectors: reset state at 0100, SP=2400. -/
def base : State := { State.reset with pc := 0x0100#16, sp := 0x2400#16 }

/-- `s` with bytes from an address on. -/
def put (s : State) (addr : Word) (bytes : List Byte) : State := s.writeBytes addr bytes

/-- Whether the step of `s` with these bytes at PC answers a next state of which `p` holds. -/
def after (s : State) (bytes : List Byte) (p : State → Bool) : Bool :=
  match step (s.writeBytes s.pc bytes) with
  | .next t => p t
  | _ => false

/-- Flags in the order of the vectors: Z S P CY AC. -/
def fl (z s p cy ac : Nat) : Flags := ⟨z == 1, s == 1, p == 1, cy == 1, ac == 1⟩

/-! ### Well-formed terms, and an ill-formed one for each check -/

/-- Every instruction is well-formed, and so are the eight vectors, the nine ports and a full ROM image. -/
theorem test_wellFormed : Instr.nop.wellFormed = true ∧ (HostMove.interrupt 0x38).wellFormed = true ∧
    (HostMove.setInputPort 8 0xFF).wellFormed = true ∧ (HostMove.orInputBit 0 0).wellFormed = true ∧
    (HostMove.clearInputBit 8 0).wellFormed = true ∧ romLengthOk 65536 = true ∧ romWellFormed [0x00] = true := by decide

/-- A vector that is no multiple of 8, and one past 0x38. -/
theorem test_illFormed_vector : (HostMove.interrupt 0x09).wellFormed = false ∧
    (HostMove.interrupt 0x40).wellFormed = false := by decide

/-- A port past the ninth, for each of the three port writes. -/
theorem test_illFormed_port : (HostMove.setInputPort 9 0).wellFormed = false ∧
    (HostMove.orInputBit 9 0).wellFormed = false ∧ (HostMove.clearInputBit 9 0).wellFormed = false := by decide

/-- A ROM image one byte too long. -/
theorem test_illFormed_rom : romLengthOk 65537 = false := by decide

/-! ### Decoding: words written out from 30_encoding.md R96 and 95_test_vectors.md S9 -/

theorem test_decode_control : decode [0xC2, 0x34, 0x12] = .ok (.jnz 0x1234, []) ∧
    decode [0xC3, 0x18, 0x00] = .ok (.jmp 0x0018, []) ∧ decode [0xCD, 0x10, 0x00] = .ok (.call 0x0010, []) ∧
    decode [0xC9, 0xAA] = .ok (.ret, [0xAA]) := by and_intros <;> rfl

theorem test_decode_load_store : decode [0x31, 0x00, 0x24] = .ok (.lxiSP 0x2400, []) ∧
    decode [0x3E, 0x42] = .ok (.mviA 0x42, []) ∧ decode [0x32, 0x00, 0x20] = .ok (.sta 0x2000, []) ∧
    decode [0x66] = .ok (.movHM, []) := by and_intros <;> rfl

theorem test_decode_arith_logic : decode [0xC6, 0x20] = .ok (.adi 0x20, []) ∧ decode [0x29] = .ok (.dadH, []) ∧
    decode [0xFE, 0x34] = .ok (.cpi 0x34, []) ∧ decode [0x0F] = .ok (.rrc, []) := by and_intros <;> rfl

theorem test_decode_stack : decode [0xF5] = .ok (.pushPSW, []) ∧ decode [0xC1] = .ok (.popB, []) ∧
    decode [0xEB] = .ok (.xchg, []) := by and_intros <;> rfl

theorem test_decode_io : decode [0xD3, 0x04] = .ok (.out 0x04, []) ∧ decode [0xDB, 0x03] = .ok (.inp 0x03, []) := by and_intros <;> rfl

/-- HLT, an undocumented NOP, RAL and the empty string. -/
theorem test_decode_rejects : decode [0x76] = .error (.unimplemented 0x76) ∧
    decode [0x08] = .error (.unimplemented 0x08) ∧ decode [0x17] = .error (.unimplemented 0x17) ∧
    decode [] = .error .truncated ∧ decode [0xC3, 0x00] = .error .truncated := by and_intros <;> rfl

/-- The table's numbering: LXI SP,2400 is 31 00 24, first byte in bits 7..0; a row of 8 bits has zero immediates. -/
theorem test_decodeTableWord : decodeTableWord 24 0x240031 = some (.lxiSP 0x2400) ∧
    decodeTableWord 8 0xC3 = some (.jmp 0x0000) ∧ decodeTableWord 16 0x42C6 = some (.adi 0x42) ∧
    decodeTableWord 8 0x76 = none := by decide

/-- A placed instruction runs as the first one after reset. -/
theorem test_withFetchWord : step (State.reset.withFetchWord 16 0x423E) =
    .next { State.reset.withFetchWord 16 0x423E with a := 0x42, pc := 0x0002 } := by rfl

/-! ### Memory -/

/-- Two bytes little-endian, across the top of memory. -/
theorem test_word_wraps : ((base.writeWord 0xFFFF 0x1234).readByte 0xFFFF, (base.writeWord 0xFFFF 0x1234).readByte 0)
    = (0x34#8, 0x12#8) := by decide

/-- Writing 0 removes the entry: memories with the same bytes are the same data. -/
theorem test_memory_canonical : (((base.writeByte 5 7).writeByte 3 9).writeByte 5 0).mem = [(3, 9)] ∧
    Memory.wf [(3, 9), (5, 7)] = true ∧ Memory.wf [(5, 7), (3, 9)] = false ∧ Memory.wf [(3, 0)] = false ∧
    Memory.wf [(65536, 1)] = false := by decide

/-! ### Flags and the primitives no opcode reaches: V1, V5, V6, V10 -/

theorem test_setZSP : (fl 0 0 0 1 1).setZSP 0x42 = fl 0 0 1 1 1 ∧ (fl 0 0 0 0 0).setZSP 0x00 = fl 1 0 1 0 0 ∧
    (fl 0 0 0 0 0).setZSP 0x80 = fl 0 1 0 0 0 ∧ parity8 0x10 = false := by decide

/-- ADD with carry-in 1 (V5). -/
theorem test_add_carry_in : (({ base with a := 0xFF } : State).aluAdd 0xFF true).flags = fl 0 1 1 1 1 := by decide

/-- SUB(00,01,0), SUB(10,01,0) and SUB(00,FF,1) (V6). -/
theorem test_sub : ((base.aluSub 0x01 false).a, (base.aluSub 0x01 false).flags) = (0xFF#8, fl 0 1 1 1 0) ∧
    (({ base with a := 0x10 } : State).aluSub 0x01 false).flags = fl 0 0 1 0 0 ∧
    ((base.aluSub 0xFF true).a, (base.aluSub 0xFF true).flags.cy) = (0x00#8, true) := by decide

/-- RLC F2, RAL B5 with CY=0, RAR 6A with CY=1: A and CY (V10). -/
theorem test_rotates :
    (let t := ({ base with a := 0xF2 } : State).aluRlc; (t.a, t.flags)) = (0xE5#8, fl 0 0 0 1 0) ∧
    (let t := ({ base with a := 0xB5 } : State).aluRal; (t.a, t.flags)) = (0x6A#8, fl 0 0 0 1 0) ∧
    (let t := ({ base with a := 0x6A, flags := fl 1 0 0 1 1 } : State).aluRar; (t.a, t.flags)) =
      (0xB5#8, fl 1 0 0 0 1) := by decide

/-- INR M of 0F with CY=1 (the example of R124, at HL), and XOR of 0F and F0 by hand from R129. -/
theorem test_inr_m_xor :
    (let t := (put { base with h := 0x20, flags := fl 0 0 0 1 0 } 0x2000 [0x0F]).aluInr .m
     (t.readByte 0x2000, t.flags, t.h)) = (0x10#8, fl 0 0 0 1 0, 0x20#8) ∧
    (let t := ({ base with a := 0x0F, flags := fl 0 0 0 1 1 } : State).aluXor 0xF0
     (t.a, t.flags)) = (0xFF#8, fl 0 1 1 0 0) := by decide

/-! ### Control: V2, V3, S2, S3 -/

theorem test_nop : after base [0x00] (fun t => t.pc == 0x0101 && t == { base with mem := t.mem, pc := t.pc }) = true := by
  decide

theorem test_jmp : after base [0xC3, 0x34, 0x12] (fun t => t.pc == 0x1234) = true := by decide

theorem test_jnz : after base [0xC2, 0x34, 0x12] (fun t => t.pc == 0x1234) = true ∧
    after { base with flags := fl 1 0 0 0 0 } [0xC2, 0x34, 0x12] (fun t => t.pc == 0x0103) = true := by decide

theorem test_jz : after base [0xCA, 0x34, 0x12] (fun t => t.pc == 0x0103) = true ∧
    after { base with flags := fl 1 0 0 0 0 } [0xCA, 0x34, 0x12] (fun t => t.pc == 0x1234) = true := by decide

theorem test_jnc : after base [0xD2, 0x34, 0x12] (fun t => t.pc == 0x1234) = true ∧
    after { base with flags := fl 0 0 0 1 0 } [0xD2, 0x34, 0x12] (fun t => t.pc == 0x0103) = true := by decide

theorem test_jc : after base [0xDA, 0x34, 0x12] (fun t => t.pc == 0x0103) = true ∧
    after { base with flags := fl 0 0 0 1 0 } [0xDA, 0x34, 0x12] (fun t => t.pc == 0x1234) = true := by decide

/-- S2. -/
theorem test_call : after { base with pc := 0x0000 } [0xCD, 0x10, 0x00] (fun t => t.readByte 0x23FF == 0x00 &&
    t.readByte 0x23FE == 0x03 && t.sp == 0x23FE && t.pc == 0x0010) = true := by decide

/-- The immediates wrap at the top of memory (V3). -/
theorem test_call_wraps : after { base with pc := 0xFFFE } [0xCD, 0x00, 0x30] (fun t => t.readByte 0x23FE == 0x01 &&
    t.readByte 0x23FF == 0x00 && t.pc == 0x3000) = true := by decide

/-- SP wraps (V3). -/
theorem test_ret : after { put base 0xFFFF [0x03, 0x01] with sp := 0xFFFF, pc := 0x3000 } [0xC9]
    (fun t => t.pc == 0x0103 && t.sp == 0x0001) = true := by decide

theorem test_rz : after { put base 0x23FE [0x03, 0x01] with sp := 0x23FE, flags := fl 1 0 0 0 0 } [0xC8]
      (fun t => t.pc == 0x0103 && t.sp == 0x2400) = true ∧
    after { put base 0x23FE [0x03, 0x01] with sp := 0x23FE } [0xC8]
      (fun t => t.pc == 0x0101 && t.sp == 0x23FE) = true := by decide

theorem test_rnz : after { put base 0x23FE [0x03, 0x01] with sp := 0x23FE } [0xC0]
      (fun t => t.pc == 0x0103 && t.sp == 0x2400) = true ∧
    after { put base 0x23FE [0x03, 0x01] with sp := 0x23FE, flags := fl 1 0 0 0 0 } [0xC0]
      (fun t => t.pc == 0x0101 && t.sp == 0x23FE) = true := by decide

theorem test_ei : after { base with ie := false } [0xFB] (fun t => t.ie && t.pc == 0x0101) = true := by decide

theorem test_di : after base [0xF3] (fun t => !t.ie && t.pc == 0x0101) = true := by decide

/-! ### Load and store: V4 -/

theorem test_lxi : after base [0x01, 0x34, 0x12] (fun t => t.b == 0x12 && t.c == 0x34) = true ∧
    after base [0x11, 0xCD, 0xAB] (fun t => t.d == 0xAB && t.e == 0xCD) = true ∧
    after base [0x21, 0x00, 0x24] (fun t => t.h == 0x24 && t.l == 0x00) = true ∧
    after base [0x31, 0xFF, 0xFF] (fun t => t.sp == 0xFFFF) = true := by decide

theorem test_lda : after (put base 0x2000 [0x42]) [0x3A, 0x00, 0x20] (fun t => t.a == 0x42) = true := by decide

/-- The STA overwrites its own low-address byte. -/
theorem test_sta : after { base with a := 0x99 } [0x32, 0x01, 0x01]
    (fun t => t.readByte 0x0101 == 0x99 && t.pc == 0x0103) = true := by decide

theorem test_ldax : after { put base 0xFFFF [0x11] with d := 0xFF, e := 0xFF } [0x1A] (fun t => t.a == 0x11) = true := by
  decide

theorem test_mvi : after base [0x06, 0xAA] (fun t => t.b == 0xAA) = true ∧
    after base [0x0E, 0xBB] (fun t => t.c == 0xBB) = true ∧ after base [0x26, 0xCC] (fun t => t.h == 0xCC) = true ∧
    after base [0x3E, 0xDD] (fun t => t.a == 0xDD) = true := by decide

theorem test_mviM : after { base with h := 0x20, l := 0x10 } [0x36, 0xFF] (fun t => t.readByte 0x2010 == 0xFF) = true := by
  decide

theorem test_mov : after { base with a := 0x33 } [0x6F] (fun t => t.l == 0x33) = true ∧
    after { base with d := 0x9C } [0x7A] (fun t => t.a == 0x9C) = true ∧
    after { base with e := 0x9D } [0x7B] (fun t => t.a == 0x9D) = true ∧
    after { base with h := 0x9E } [0x7C] (fun t => t.a == 0x9E) = true ∧
    after { base with l := 0x9F } [0x7D] (fun t => t.a == 0x9F) = true := by decide

/-- H=20, L=05, mem[2005]=31. -/
def memAtHl : State := { put base 0x2005 [0x31] with h := 0x20, l := 0x05 }

theorem test_mov_from_M : after memAtHl [0x56] (fun t => t.d == 0x31) = true ∧
    after memAtHl [0x5E] (fun t => t.e == 0x31) = true ∧ after memAtHl [0x7E] (fun t => t.a == 0x31) = true ∧
    after memAtHl [0x66] (fun t => t.h == 0x31 && t.l == 0x05) = true := by decide

/-- MOV M,A overwrites its own opcode. -/
theorem test_movMA : after { base with h := 0x01 } [0x77] (fun t => t.readByte 0x0100 == 0x00 && t.pc == 0x0101) = true := by
  decide

/-! ### Arithmetic and logic: V5 to V11, S4 -/

/-- S4, and CY=1 before, which is not added. -/
theorem test_adi : after { base with a := 0xF0, flags := fl 0 0 0 1 0 } [0xC6, 0x20]
      (fun t => t.a == 0x10 && t.flags == fl 0 0 0 1 0) = true ∧
    after { base with a := 0x3A, flags := fl 0 0 0 1 0 } [0xC6, 0xC6]
      (fun t => t.a == 0x00 && t.flags == fl 1 0 1 1 1) = true := by decide

theorem test_cpi : after { base with a := 0x00, flags := fl 0 0 0 0 1 } [0xFE, 0x01]
      (fun t => t.a == 0x00 && t.flags == fl 0 1 1 1 1) = true ∧
    after { base with a := 0x80 } [0xFE, 0x7F] (fun t => t.flags == fl 0 0 0 0 0) = true := by decide

theorem test_ani : after { base with a := 0x55, flags := fl 0 0 0 1 0 } [0xE6, 0xAA]
      (fun t => t.a == 0x00 && t.flags == fl 1 0 1 0 1) = true ∧
    after { base with a := 0x81 } [0xE6, 0x80] (fun t => t.a == 0x80 && t.flags == fl 0 1 0 0 0) = true := by decide

theorem test_anaA : after { base with a := 0x08, flags := fl 0 0 0 1 0 } [0xA7]
    (fun t => t.a == 0x08 && t.flags == fl 0 0 0 0 1) = true := by decide

theorem test_xraA : after { base with a := 0x5A, flags := fl 0 0 0 1 1 } [0xAF]
    (fun t => t.a == 0x00 && t.flags == fl 1 0 1 0 0) = true := by decide

theorem test_dcr : after { base with b := 0x01, flags := fl 0 0 0 1 1 } [0x05]
      (fun t => t.b == 0x00 && t.flags == fl 1 0 1 1 1) = true ∧
    after { base with c := 0x00, flags := fl 0 0 0 1 1 } [0x0D]
      (fun t => t.c == 0xFF && t.flags == fl 0 1 1 1 1) = true ∧
    after { base with a := 0x10, flags := fl 0 0 0 1 1 } [0x3D]
      (fun t => t.a == 0x0F && t.flags == fl 0 0 1 1 1) = true := by decide

theorem test_dad : after { base with h := 0x00, l := 0x01, b := 0xFF, c := 0xFF, flags := fl 1 0 0 0 1 } [0x09]
      (fun t => t.h == 0x00 && t.l == 0x00 && t.flags == fl 1 0 0 1 1) = true ∧
    after { base with h := 0xFF, l := 0xFF } [0x19]
      (fun t => t.h == 0xFF && t.l == 0xFF && t.flags == fl 0 0 0 0 0) = true ∧
    after { base with h := 0x40, l := 0x01 } [0x29] (fun t => t.h == 0x80 && t.l == 0x02 && !t.flags.cy) = true := by
  decide

theorem test_inx : after { base with d := 0x1B, e := 0xFF } [0x13] (fun t => t.d == 0x1C && t.e == 0x00) = true ∧
    after { base with h := 0xFF, l := 0xFF } [0x23]
      (fun t => t.h == 0x00 && t.l == 0x00 && t.flags == base.flags) = true := by decide

theorem test_rrc : after { base with a := 0x01 } [0x0F] (fun t => t.a == 0x80 && t.flags == fl 0 0 0 1 0) = true ∧
    after { base with a := 0xF2, flags := fl 1 0 0 1 1 } [0x0F]
      (fun t => t.a == 0x79 && t.flags == fl 1 0 0 0 1) = true := by decide

theorem test_daa : after { base with a := 0x9B } [0x27] (fun t => t.a == 0x01 && t.flags == fl 0 0 0 1 0) = true ∧
    after { base with a := 0x12, flags := fl 0 0 0 0 1 } [0x27]
      (fun t => t.a == 0x18 && t.flags == fl 0 0 1 0 1) = true := by decide

/-- The undecided band of R138, and FA with CY=1. -/
theorem test_daa_band : after { base with a := 0xFA } [0x27] (fun t => t.a == 0x00 && t.flags == fl 1 0 1 0 0) = true ∧
    after { base with a := 0xFA, flags := fl 0 0 0 1 0 } [0x27]
      (fun t => t.a == 0x60 && t.flags == fl 0 0 1 1 0) = true := by decide

/-! ### Stack: V12 -/

theorem test_push : after { base with b := 0x12, c := 0x34, sp := 0x0000 } [0xC5]
      (fun t => t.readByte 0xFFFF == 0x12 && t.readByte 0xFFFE == 0x34 && t.sp == 0xFFFE) = true ∧
    after { base with d := 0x56, e := 0x78 } [0xD5]
      (fun t => t.readByte 0x23FF == 0x56 && t.readByte 0x23FE == 0x78) = true ∧
    after { base with h := 0x9A, l := 0xBC } [0xE5]
      (fun t => t.readByte 0x23FF == 0x9A && t.readByte 0x23FE == 0xBC) = true := by decide

theorem test_pushPSW : after { base with a := 0x10, flags := fl 0 0 0 1 0 } [0xF5]
      (fun t => t.readByte 0x23FF == 0x10 && t.readByte 0x23FE == 0x08) = true ∧
    after { base with a := 0xFF, flags := fl 1 1 1 1 1 } [0xF5]
      (fun t => t.readByte 0x23FE == 0x1F && t.sp == 0x23FE) = true := by decide

theorem test_pop : after { put base 0xFFFF [0x34, 0x12] with sp := 0xFFFF } [0xC1]
      (fun t => t.b == 0x12 && t.c == 0x34 && t.sp == 0x0001) = true ∧
    after { put base 0x23FE [0x34, 0x12] with sp := 0x23FE } [0xD1] (fun t => t.d == 0x12 && t.e == 0x34) = true ∧
    after { put base 0x23FE [0x34, 0x12] with sp := 0x23FE } [0xE1] (fun t => t.h == 0x12 && t.l == 0x34) = true := by
  decide

theorem test_popPSW : after { put base 0x23FE [0xED, 0x77] with sp := 0x23FE } [0xF1]
    (fun t => t.a == 0x77 && t.flags == fl 1 0 1 1 0 && t.sp == 0x2400) = true := by decide

theorem test_xchg : after { base with d := 0x1B, e := 0x00, h := 0x24, l := 0x10 } [0xEB]
    (fun t => t.d == 0x24 && t.e == 0x10 && t.h == 0x1B && t.l == 0x00) = true := by decide

/-! ### Ports: V13, V15 -/

theorem test_out_shift : after { base with a := 0xFB } [0xD3, 0x02]
      (fun t => t.shiftOffset == 3#3 && t.ports == base.ports) = true ∧
    after { base with a := 0xAA, shiftHi := 0x11, shiftLo := 0x22 } [0xD3, 0x04]
      (fun t => t.shiftHi == 0xAA && t.shiftLo == 0x11) = true := by decide

theorem test_out_other : after { base with a := 0x5A } [0xD3, 0x08] (fun t => t.ports[8] == 0x5A) = true ∧
    after { base with a := 0x5A } [0xD3, 0x05]
      (fun t => t.ports == base.ports && t.sound == [⟨0x05, 0x5A⟩]) = true ∧
    after { base with a := 0x5A } [0xD3, 0x09] (fun t => t.ports == base.ports && t.sound == []) = true := by decide

/-- The window at offsets 0, 3 and 7. -/
theorem test_in_shift : shiftWindow 0xBB 0xAA 0#3 = 0xBB ∧ shiftWindow 0xBB 0xAA 7#3 = 0xD5 ∧
    after { base with shiftHi := 0xBB, shiftLo := 0xAA, shiftOffset := 3#3 } [0xDB, 0x03]
      (fun t => t.a == 0xDD) = true := by decide

theorem test_in_other : after (base.writePort 2 0x70) [0xDB, 0x02] (fun t => t.a == 0x70) = true ∧
    after { base.writePort 6 0x5A with a := 0x11 } [0xDB, 0x06] (fun t => t.a == 0x00) = true := by decide

/-- IN 0 reads the machine's constant, whatever it is. -/
theorem test_in_zero : exec (.inp 0x00) base = .next { base with a := Config.in0Const } := by rfl

theorem test_host_ports : orInputBit 1 0x04 (base.writePort 1 0x01) = .next (base.writePort 1 0x05) ∧
    clearInputBit 1 0x01 (base.writePort 1 0x05) = .next (base.writePort 1 0x04) ∧
    setInputPort 1 0x70 (base.writePort 1 0x04) = .next (base.writePort 1 0x70) := by and_intros <;> rfl

/-! ### Interrupts, faults, the host's turn, the ROM load: S6, V14, P5 -/

/-- PC=1234, SP=2400. -/
def at1234 : State := { base with pc := 0x1234 }

theorem test_interrupt : injectInterrupt 0x10 at1234 =
    .next { at1234 with mem := [(0x23FE, 0x34), (0x23FF, 0x12)], sp := 0x23FE, pc := 0x0010, ie := false } := by rfl

theorem test_interrupt_dropped : injectInterrupt 0x08 { at1234 with ie := false } =
    .next { at1234 with ie := false } := by rfl

theorem test_interrupt_refused : injectInterrupt 0x0C at1234 = .refused (.interruptVector 0x0C) := by rfl

/-- P5: the fault at 0008, PC=0009 after it. -/
theorem test_unimplemented : step (put { base with pc := 0x0008 } 0x0008 [0x76]) =
    .fault (.unimplementedOpcode 0x0008 0x76
      { base with mem := [(8, 0x76)], pc := 0x0009, faulted := .yes 0x0008 0x76 }) := by rfl

theorem test_faulted : step { base with faulted := .yes 0x0008 0x76 } = .fault (.coreFaulted 0x0008 0x76) ∧
    injectInterrupt 0x08 { base with faulted := .yes 0x0008 0x76 } =
      .next { base with faulted := .yes 0x0008 0x76 } := by and_intros <;> rfl

/-- 76 as an immediate does not fault. -/
theorem test_immediate_is_no_opcode : after base [0xC3, 0x76, 0x08] (fun t => t.pc == 0x0876) = true := by decide

/-- The host's turn comes first, then the core's. -/
theorem test_host_turn : step { base with schedule := [.host (.interrupt 0x08), .core] } =
    .next { base with
      mem := [(0x23FF, 0x01)], sp := 0x23FE, pc := 0x0008, ie := false, schedule := [.core] } := by rfl

theorem test_boot : boot [0x31, 0x00, 0x24] = .next { State.reset with mem := [(0, 0x31), (2, 0x24)] } := by rfl

/-- A cycle count is returned for an instruction, none for an unimplemented opcode. -/
theorem test_cycles : stepCycles base = some (Config.cycles 0x00) ∧ stepCycles (put base 0x0100 [0x76]) = none := ⟨rfl, rfl⟩

/-- The reset state is a state of the invariant, and a run from it is safe for some steps. -/
theorem test_reset_inv : Inv State.reset ∧ SafeFor 2 State.reset :=
  ⟨⟨rfl, rfl, fun _ h => by cases h⟩, ⟨{ State.reset with pc := 2#16 }, rfl⟩⟩

/-! ### A witness for the hypotheses of every statement that has some -/

theorem test_hyp_EncodeDecodeInverse : decode [0xC3, 0x34, 0x12, 0xAA] = .ok (.jmp 0x1234, [0xAA]) := by rfl

theorem test_hyp_DecoderAcceptsExactlySixty : 0xFE#8 ∈ implementedOpcodes ∧ 0xFF#8 ∉ implementedOpcodes ∧
    Instr.nop.opcode ∉ threeByteOpcodes ∧ Instr.nop.opcode ∉ twoByteOpcodes ∧
    (Instr.sta 0).opcode ∈ threeByteOpcodes ∧ (Instr.out 0).opcode ∈ twoByteOpcodes := by decide

/-- The core is about to run an instruction, with and without turns left on the schedule. -/
theorem test_hyp_StepRunsDecodedInstruction : AboutToRun base base .nop ∧
    AboutToRun { put base 0x0100 [0xC6, 0x20] with schedule := [.core, .host (.interrupt 0x08)] }
      { put base 0x0100 [0xC6, 0x20] with schedule := [.host (.interrupt 0x08)] } (.adi 0x20) :=
  ⟨⟨⟨rfl, rfl⟩, _, rfl⟩, ⟨⟨rfl, rfl⟩, _, rfl⟩⟩

/-- A request and a port write. -/
theorem test_hyp_StepTakesHostTurn : base.faulted = .no ∧
    ({ base with schedule := [.host (.interrupt 0x38)] } : State).schedule = .host (.interrupt 0x38) :: [] ∧
    ({ base with schedule := [.host (.setInputPort 8 1), .core] } : State).schedule =
      .host (.setInputPort 8 1) :: [.core] := by decide

/-- Both sides of the trap: 76 and 00. -/
theorem test_hyp_UnlistedOpcodeTraps :
    CoreTurn (put base 0x0100 [0x76]) (put base 0x0100 [0x76]) ∧ CoreTurn base base ∧
    (put base 0x0100 [0x76]).readByte (put base 0x0100 [0x76]).pc ∉ implementedOpcodes ∧
    base.readByte base.pc ∈ implementedOpcodes :=
  ⟨⟨rfl, rfl⟩, ⟨rfl, rfl⟩, by decide, by decide⟩

/-- At the top of memory, and on a faulted core. -/
theorem test_hyp_UnimplementedOpcodeIsFatal :
    CoreTurn (put { base with pc := 0xFFFF } 0xFFFF [0xFF]) (put { base with pc := 0xFFFF } 0xFFFF [0xFF]) ∧
    (put { base with pc := 0xFFFF } 0xFFFF [0xFF]).readByte 0xFFFF ∉ implementedOpcodes ∧
    ({ base with faulted := .yes 0xFFFF 0xFF } : State).faulted = .yes 0xFFFF 0xFF ∧ vectorOk 0x38 = true :=
  ⟨⟨rfl, rfl⟩, by decide, rfl, rfl⟩

/-- Each of the four jumps, one of them across the top of memory, and each return not taken. -/
theorem test_hyp_ConditionalJumpsSkipImmediates :
    AboutToRun (put base 0x0100 [0xC2, 0x34, 0x12]) (put base 0x0100 [0xC2, 0x34, 0x12]) (.jnz 0x1234) ∧
    AboutToRun (put base 0x0100 [0xCA, 0x34, 0x12]) (put base 0x0100 [0xCA, 0x34, 0x12]) (.jz 0x1234) ∧
    AboutToRun (put base 0x0100 [0xD2, 0x34, 0x12]) (put base 0x0100 [0xD2, 0x34, 0x12]) (.jnc 0x1234) ∧
    AboutToRun (put { base with pc := 0xFFFF } 0xFFFF [0xDA, 0x34, 0x12])
      (put { base with pc := 0xFFFF } 0xFFFF [0xDA, 0x34, 0x12]) (.jc 0x1234) ∧
    (AboutToRun (put { base with flags := fl 1 0 0 0 0 } 0x0100 [0xC0])
      (put { base with flags := fl 1 0 0 0 0 } 0x0100 [0xC0]) .rnz ∧
      (put { base with flags := fl 1 0 0 0 0 } 0x0100 [0xC0]).flags.z = true) ∧
    (AboutToRun (put base 0x0100 [0xC8]) (put base 0x0100 [0xC8]) .rz ∧ (put base 0x0100 [0xC8]).flags.z = false) :=
  ⟨⟨⟨rfl, rfl⟩, _, rfl⟩, ⟨⟨rfl, rfl⟩, _, rfl⟩, ⟨⟨rfl, rfl⟩, _, rfl⟩, ⟨⟨rfl, rfl⟩, _, rfl⟩,
    ⟨⟨⟨rfl, rfl⟩, _, rfl⟩, rfl⟩, ⟨⟨⟨rfl, rfl⟩, _, rfl⟩, rfl⟩⟩

/-- The other addresses of a word write at 0xFFFF. -/
theorem test_hyp_WordWriteThenRead : 0x0001#16 ≠ 0xFFFF#16 ∧ 0x0001#16 ≠ 0xFFFF#16 + 1#16 := by decide

/-- Two canonical memories that read the same, reached by different writes. -/
theorem test_hyp_CanonicalMemoryIsUnique :
    (Memory.write (Memory.write [] 5 7) 3 9).wf = true ∧ (Memory.write (Memory.write [] 3 9) 5 7).wf = true ∧
    ∀ addr : Word, (Memory.write (Memory.write [] 5 7) 3 9).read addr.toNat =
      (Memory.write (Memory.write [] 3 9) 5 7).read addr.toNat := ⟨rfl, rfl, fun _ => rfl⟩

theorem test_hyp_UnreachedPrimitives : Reg.b ≠ Reg.m ∧ Reg.a ≠ Reg.m ∧
    (base.aluDcr .m, base.readByte base.hl - 1#8) ∈
      [(base.aluInr .m, base.readByte base.hl + 1#8), (base.aluDcr .m, base.readByte base.hl - 1#8)] ∧
    (base.aluXor 0x5A, base.a ^^^ 0x5A#8) ∈
      [(base.aluOr 0x5A, base.a ||| 0x5A#8), (base.aluXor 0x5A, base.a ^^^ 0x5A#8)] := by decide

theorem test_hyp_CallResult : AboutToRun (put { base with pc := 0xFFFE } 0xFFFE [0xCD, 0x00, 0x30])
    (put { base with pc := 0xFFFE } 0xFFFE [0xCD, 0x00, 0x30]) (.call 0x3000) := ⟨⟨rfl, rfl⟩, _, rfl⟩

/-- The call and its return, with SP = 0001, whose push wraps. -/
def callAndReturn : State := { put (put base 0x0100 [0xCD, 0x00, 0x30]) 0x3000 [0xC9] with sp := 0x0001 }

/-- With a request on the schedule after the two turns. -/
theorem test_hyp_RetResult :
    AboutToRun { callAndReturn with schedule := [.core, .core, .host (.interrupt 0x08)] }
      { callAndReturn with schedule := [.core, .host (.interrupt 0x08)] } (.call 0x3000) ∧
    ({ callAndReturn with schedule := [.core, .host (.interrupt 0x08)] } : State).nextTurn.1 = .core ∧
    ∀ t, step { callAndReturn with schedule := [.core, .core, .host (.interrupt 0x08)] } = .next t →
      t.readByte 0x3000 = 0xC9#8 :=
  ⟨⟨⟨rfl, rfl⟩, _, rfl⟩, rfl, fun t h => by
    have e : step { callAndReturn with schedule := [.core, .core, .host (.interrupt 0x08)] } =
        .next { callAndReturn.push16 0x0103 with pc := 0x3000, schedule := [.core, .host (.interrupt 0x08)] } := rfl
    rw [e] at h
    cases h
    rfl⟩

/-- The eight vectors at both ends, on a core that is not faulted. -/
theorem test_hyp_interrupts : base.faulted = .no ∧ base.ie = true ∧ vectorOk 0x00 = true ∧ vectorOk 0x38 = true ∧
    ({ base with ie := false } : State).ie = false ∧
    ({ base with faulted := .yes 0x0000 0x76 } : State).faulted ≠ .no := by decide

/-- The three pairs of DAD, HL = FFFF and DE = 0001 among them. -/
theorem test_hyp_DadResults :
    ∃ s : State, s.h.toNat * 256 + s.l.toNat = 65535 ∧ s.d.toNat * 256 + s.e.toNat = 1 ∧
      s.b.toNat * 256 + s.c.toNat = 0 := ⟨{ base with h := 0xFF, l := 0xFF, e := 0x01 }, by decide⟩

/-- Any `low` and `high` that the two equations give. -/
theorem test_hyp_DaaResult : ∃ low high : Nat, low = (0x9B + 6) % 256 ∧ high = (low + 96) % 256 := ⟨161, 1, by decide⟩

/-- Sums on both sides of the band: F9 (as 99 + 60 = F9) and 132 (as 99 + 99). -/
theorem test_hyp_DaaAfterAdiIsDecimalSum :
    ({ base with a := 0x99 } : State).a = packedBcd 99 ∧ (packedBcd 99).toNat + (packedBcd 60).toNat = 0xF9 ∧
    (packedBcd 99).toNat + (packedBcd 99).toNat = 0x132 ∧
    ¬ (250 ≤ (packedBcd 99).toNat + (packedBcd 60).toNat ∧ (packedBcd 99).toNat + (packedBcd 60).toNat ≤ 255) := by
  decide

/-- The four pushes: the bytes of a pair, and a flag byte with all five flags. -/
theorem test_hyp_PushResults : ∃ s : State, s.b.toNat = 0x12 ∧ s.d.toNat = 0x56 ∧ s.h.toNat = 0x9A ∧
    s.a.toNat = 0xFF ∧ s.flags.z.toNat + 2 * s.flags.s.toNat + 4 * s.flags.p.toNat + 8 * s.flags.cy.toNat +
      16 * s.flags.ac.toNat = 0x1F :=
  ⟨{ base with a := 0xFF, b := 0x12, d := 0x56, h := 0x9A, flags := fl 1 1 1 1 1 }, by decide⟩

theorem test_hyp_PushThenPopRestores :
    (Instr.pushPSW, Instr.popPSW) ∈ [(Instr.pushB, Instr.popB), (Instr.pushPSW, Instr.popPSW)] ∧
    0x2400#16 ≠ base.sp - 1#16 ∧ 0x2400#16 ≠ base.sp - 2#16 := by decide

/-- Each class of OUT port at its ends. -/
theorem test_hyp_OutToOtherPorts : (0x08#8).toNat ∈ [0, 1, 6, 7, 8] ∧ (0x01#8).toNat ∈ [0, 1, 6, 7, 8] ∧
    (0x03#8).toNat ∈ [3, 5] ∧ (0x05#8).toNat ∈ [3, 5] ∧ 9 ≤ (0x09#8).toNat ∧ 9 ≤ (0xFF#8).toNat := by decide

theorem test_hyp_InFromOtherPorts : 4 ≤ (0x04#8).toNat ∧ 4 ≤ (0xFF#8).toNat := by decide

/-- An OUT that changes entry 8, and a port array that differs from another outside entries 1 and 2. -/
theorem test_hyp_CorePortAccess :
    exec (.out 0x08) { base with a := 0x5A } = .next (({ base with a := 0x5A } : State).writePort 8 0x5A) ∧
    (({ base with a := 0x5A } : State).writePort 8 0x5A).ports[8] ≠ base.ports[8] ∧
    (base.writePort 0 0x11).ports[1] = base.ports[1] ∧ (base.writePort 0 0x11).ports[2] = base.ports[2] ∧
    (base.writePort 0 0x11).ports[0] ≠ base.ports[0] :=
  ⟨rfl, by decide, by decide, by decide, by decide⟩

theorem test_hyp_HostPortWrites : 0 < 9 ∧ 8 < 9 := by decide

/-- Vectors, port indexes and lengths just outside the interface. -/
theorem test_hyp_OutsideInterfaceIsRefused : (0x39#8).toNat % 8 ≠ 0 ∧ 64 ≤ (0x40#8).toNat ∧ 9 ≤ 9 ∧
    65536 < (List.replicate 65537 0x00#8).length :=
  ⟨by decide, by decide, by decide, Nat.lt_of_lt_of_eq (by decide) List.length_replicate.symm⟩

/-- The longest ROM image, and the empty one. -/
theorem test_hyp_ResetValues : (List.replicate 65536 0x00#8).length ≤ 65536 ∧ ([] : List Byte).length ≤ 65536 :=
  ⟨Nat.le_of_eq List.length_replicate, by decide⟩

/-- An instruction that writes nothing but PC, for each table of writers; a store, and an address it does not touch. -/
theorem test_hyp_writers : exec .nop base = .next base ∧ writesZsp .nop = false ∧ writesCy .dcrA = false ∧
    writesAc .daa = false ∧ writesA .xchg = false ∧ writesB .popD = false ∧ writesC .dadB = false ∧
    writesD .movEM = false ∧ writesE .movDM = false ∧ writesH .movLA = false ∧ writesL .movHM = false ∧
    writesSp .xchg = false ∧ transfersControl .ei = false ∧ 0x2400#16 ∉ storedAddresses .pushB base ∧
    0x0000#16 ∉ storedAddresses (.sta 0x2000) base :=
  ⟨rfl, by decide⟩

/-- EI and DI, and a host move that clears IE. -/
theorem test_hyp_InterruptLatchAccess : exec .ei base = .next { base with ie := true } ∧
    exec .di base = .next { base with ie := false } ∧
    hostMove (.interrupt 0x08) base = .next (base.enterInterrupt 0x08) ∧
    (base.enterInterrupt 0x08).ie ≠ base.ie := ⟨rfl, rfl, rfl, by decide⟩

/-- A state of the invariant with memory and a sound event, and its step. -/
theorem test_hyp_StepKeepsInvariant : Inv { put base 0x0100 [0xD3, 0x03] with sound := [⟨0x05, 0x01⟩] } ∧
    step { put base 0x0100 [0xD3, 0x03] with sound := [⟨0x05, 0x01⟩] } =
      .next { put base 0x0100 [0xD3, 0x03] with pc := 0x0102, sound := [⟨0x05, 0x01⟩, ⟨0x03, 0x00⟩] } :=
  ⟨⟨rfl, rfl, fun ev h => by simp at h; simp [h]⟩, rfl⟩

theorem test_hyp_ResetMeetsInvariant : boot [0xC3, 0x00, 0x00] = .next { State.reset with mem := [(0, 0xC3)] } := by rfl

end Sys2Proof.Tests
end

/-! PROOFS of the statements on the state (spec/10_state.md): the reset values (O52), the interrupt latch (O54), and the
writers of the registers and of the shift hardware (O56). -/

namespace Sys2Proof.Machine

/-! ### Reset and the ROM load -/

@[simp] theorem State.reset_readByte (addr : Word) : State.reset.readByte addr = 0#8 := rfl

@[simp] theorem State.reset_ports (k : Nat) (hk : k < 9) : State.reset.ports[k] = 0#8 :=
  Vector.getElem_replicate hk

/-- A reset with an image that fits changes memory alone (70_reset_and_hazards.md R271). -/
theorem boot_eq {rom : List Byte} (h : rom.length ≤ Config.memorySize) :
    boot rom = .next { State.reset with mem := Memory.writeList [] 0 rom } := by
  have hok : romLengthOk rom.length = true := decide_eq_true h
  rw [boot, loadRom, if_pos hok]
  rfl

/-- A memory that holds nothing but an image from address 0 reads as the image, and as 0 above it. -/
theorem Memory.read_writeList_nil (rom : List Byte) (a : Nat) :
    (Memory.writeList [] 0 rom).read a = rom.getD a 0#8 := by
  rw [Memory.read_writeList, Memory.read_nil, Nat.zero_add, Nat.sub_zero]
  by_cases ha : a < rom.length
  · exact if_pos ⟨a.zero_le, ha⟩
  · rw [if_neg fun h => ha h.2, List.getD_eq_getElem?_getD, List.getElem?_eq_none (Nat.le_of_not_lt ha)]
    rfl

/-- Settles O52: the registers by the definition of reset, the memory by what a block write leaves to be read. -/
theorem resetValues : Obligations.ResetValues := by
  refine ⟨?_, fun rom hrom => ⟨_, boot_eq hrom, rfl, fun addr => Memory.read_writeList_nil rom addr.toNat⟩⟩
  rintro s rfl
  exact ⟨rfl, rfl, rfl, rfl, rfl, rfl, rfl, rfl, rfl, rfl, rfl, State.reset_readByte, State.reset_ports,
    rfl, rfl, rfl, rfl⟩

/-! ### What an instruction may write -/

/-- The frame of every instruction: a register, PC, IE and the shift hardware are as before, but under their writers
(10_state.md R32, R33, R35, R42); the fault status and the schedule always are. -/
theorem exec_frame {i : Instr} {s t : State} (h : exec i s = .next t) :
    t = { s with
      a := bif writesA i then t.a else s.a
      b := bif writesB i then t.b else s.b
      c := bif writesC i then t.c else s.c
      d := bif writesD i then t.d else s.d
      e := bif writesE i then t.e else s.e
      h := bif writesH i then t.h else s.h
      l := bif writesL i then t.l else s.l
      sp := bif writesSp i then t.sp else s.sp
      pc := bif transfersControl i then t.pc else s.pc
      ie := if i = .ei then true else if i = .di then false else s.ie
      shiftOffset := if i = .out 0x02#8 then t.shiftOffset else s.shiftOffset
      shiftHi := if i = .out 0x04#8 then t.shiftHi else s.shiftHi
      shiftLo := if i = .out 0x04#8 then t.shiftLo else s.shiftLo
      flags := t.flags, mem := t.mem, ports := t.ports, sound := t.sound } := by
  cases i
  case jnz adr => cases h; rw [State.jumpIf_eq]; rfl
  case jz adr => cases h; rw [State.jumpIf_eq]; rfl
  case jnc adr => cases h; rw [State.jumpIf_eq]; rfl
  case jc adr => cases h; rw [State.jumpIf_eq]; rfl
  case rnz => cases h; rw [State.returnIf_eq]; split <;> rfl
  case rz => cases h; rw [State.returnIf_eq]; split <;> rfl
  case out port =>
    cases h
    rcases s.ioOut_cases port s.a with ⟨hp, h⟩ | ⟨hp, h⟩ | ⟨hp | hp, h⟩ | ⟨⟨h2, -, h4, -⟩, h⟩ <;> rw [h]
    · subst hp; rfl
    · subst hp; rfl
    · subst hp; rfl
    · subst hp; rfl
    · rw [State.writePort_frame, if_neg fun e => h2 (Instr.out.inj e), if_neg fun e => h4 (Instr.out.inj e),
        if_neg fun e => h4 (Instr.out.inj e)]
      rfl
  all_goals cases h; rfl

/-- Settles O56: each column of the register table is one field of the frame of `exec`. -/
theorem registerWriters : Obligations.RegisterWriters := by
  intro i s t h
  have frame := exec_frame h
  refine ⟨fun hw => ?_, fun hw => ?_, fun hw => ?_, fun hw => ?_, fun hw => ?_, fun hw => ?_, fun hw => ?_,
    fun hw => ?_, fun hw => ?_, fun hw => ?_, fun hw => ⟨?_, ?_⟩⟩ <;> rw [frame] <;> simp only [hw, cond_false, if_false]

/-! ### The interrupt latch

IE is read by the interrupt logic alone (10_state.md R32), so the operations that branch commute with setting it. -/

@[simp] theorem State.writePort_ie (s : State) (p : Nat) (v : Byte) : (s.writePort p v).ie = s.ie := by
  rw [State.writePort_frame]

theorem State.jumpIf_with_ie (s : State) (k : Cond) (adr : Word) (b : Bool) :
    ({ s with ie := b } : State).jumpIf k adr = { s.jumpIf k adr with ie := b } := by
  simp only [State.jumpIf_eq]

theorem State.returnIf_with_ie (s : State) (k : Cond) (b : Bool) :
    ({ s with ie := b } : State).returnIf k = { s.returnIf k with ie := b } := by
  simp only [State.returnIf_eq]
  split <;> rfl

theorem State.writePort_with_ie (s : State) (p : Nat) (v : Byte) (b : Bool) :
    ({ s with ie := b } : State).writePort p v = { s.writePort p v with ie := b } := by
  unfold State.writePort
  split <;> rfl

theorem State.ioOut_with_ie (s : State) (p v : Byte) (b : Bool) :
    ({ s with ie := b } : State).ioOut p v = { s.ioOut p v with ie := b } := by
  unfold State.ioOut
  split
  · rfl
  · split
    · rfl
    · split
      · rfl
      · exact s.writePort_with_ie p.toNat v b

/-- No instruction looks at IE: run with another IE, it gives the same state but for IE (10_state.md R32). -/
theorem exec_with_ie {i : Instr} {s t : State} (b : Bool) (h : exec i s = .next t) :
    exec i { s with ie := b } = .next { t with ie := if i = .ei then true else if i = .di then false else b } := by
  cases i
  case jnz adr => cases h; exact congrArg _ (s.jumpIf_with_ie .nz adr b)
  case jz adr => cases h; exact congrArg _ (s.jumpIf_with_ie .z adr b)
  case jnc adr => cases h; exact congrArg _ (s.jumpIf_with_ie .nc adr b)
  case jc adr => cases h; exact congrArg _ (s.jumpIf_with_ie .c adr b)
  case rnz => cases h; exact congrArg _ (s.returnIf_with_ie .nz b)
  case rz => cases h; exact congrArg _ (s.returnIf_with_ie .z b)
  case out port => cases h; exact congrArg _ (s.ioOut_with_ie port s.a b)
  all_goals cases h; rfl

/-- Of the host's moves only an interrupt request changes IE, and it clears it (60_exceptions.md R250). -/
theorem hostMove_changes_ie {m : HostMove} {s t : State} (h : hostMove m s = .next t) (hie : t.ie ≠ s.ie) :
    ∃ v, m = .interrupt v ∧ t.ie = false := by
  rcases hostMove_cases h with ⟨v, hm, -, -, rfl⟩ | rfl | ⟨p, v, -, rfl⟩
  · exact ⟨v, hm, s.enterInterrupt_ie v⟩
  · exact absurd rfl hie
  · exact absurd (s.writePort_ie p v) hie

/-- Settles O54: writers by the frame of `exec` and the cases of a host move, reads by running with another IE. -/
theorem interruptLatchAccess : Obligations.InterruptLatchAccess :=
  ⟨fun _ _ _ h => congrArg State.ie (exec_frame h), fun _ _ _ b h => exec_with_ie b h,
    fun _ _ _ h hie => hostMove_changes_ie h hie, rfl⟩

end Sys2Proof.Machine

/-! PROOFS of the statements on memory (spec/20_memory.md): the byte write (O10) and the word read (O11). -/

namespace Sys2Proof.Machine

theorem State.readByte_writeByte_of_ne (s : State) {addr x : Word} (v : Byte) (hx : x ≠ addr) :
    (s.writeByte addr v).readByte x = s.readByte x := by
  rw [State.readByte_writeByte, if_neg hx.symm]

/-- A byte write in the form in which every store is framed (20_memory.md R63). -/
theorem State.storesOnly_writeByte (s : State) (addr : Word) (v : Byte) :
    StoresOnly s (s.writeByte addr v) addr v :=
  ⟨s.readByte_writeByte_same addr v, fun _ hx => s.readByte_writeByte_of_ne v hx, rfl⟩

/-- Settles O10: the read after a write at the same address and at another, and the frame of the write. -/
theorem byteWriteThenRead : Obligations.ByteWriteThenRead :=
  State.storesOnly_writeByte

/-- A word read as a number, for the statements that give words by their bytes (20_memory.md R64). -/
theorem State.readWord_toNat (s : State) (addr : Word) :
    (s.readWord addr).toNat = (s.readByte addr).toNat + 256 * (s.readByte (addr + 1#16)).toNat := by
  rw [State.readWord, pair_toNat, Nat.mul_comm, Nat.add_comm]

/-- Settles O11: the number a pair of bytes stands for; at 0xFFFF the second address is 0x0000 (20_memory.md R66). -/
theorem wordReadIsLittleEndian : Obligations.WordReadIsLittleEndian :=
  ⟨State.readWord_toNat, fun s => s.readWord_toNat 0xFFFF⟩

end Sys2Proof.Machine

/-! PROOFS of the statements on the encoding (spec/30_encoding.md): the trap on an unlisted opcode byte (O7). -/

namespace Sys2Proof.Machine

/-! ### The listed bytes -/

/-- The decoder's table has one row for each byte of the list of R96, in another order. -/
theorem opcodeTable_keys_perm : (opcodeTable.map Prod.fst).Perm implementedOpcodes := by decide

/-- The decoder knows exactly the listed bytes (30_encoding.md R96, R97). -/
theorem decodeOpcode_eq_none_iff (op : Byte) : decodeOpcode op = none ↔ op ∉ implementedOpcodes := by
  rw [← opcodeTable_keys_perm.mem_iff, decodeOpcode, List.lookup_eq_none_iff, List.mem_map]
  constructor
  · rintro h ⟨row, hrow, rfl⟩
    simpa using h row hrow
  · intro h row hrow
    exact bne_iff_ne.mpr fun hop => h ⟨row, hrow, hop.symm⟩

theorem listed_numbers_nodup : (implementedOpcodes.map BitVec.toNat).Nodup := by decide

/-- The numbers of the listed bytes are the 60 numbers of the list, for they are all below 256. -/
theorem listed_numbers_perm :
    ((List.range 256).filter fun n => BitVec.ofNat 8 n ∈ implementedOpcodes).Perm
      (implementedOpcodes.map BitVec.toNat) := by
  refine (List.perm_ext_iff_of_nodup (List.nodup_range.filter _) listed_numbers_nodup).mpr fun n => ?_
  simp only [List.mem_filter, List.mem_range, decide_eq_true_eq, List.mem_map]
  constructor
  · rintro ⟨hn, hop⟩
    exact ⟨_, hop, (BitVec.toNat_ofNat n 8).trans (Nat.mod_eq_of_lt hn)⟩
  · rintro ⟨op, hop, rfl⟩
    exact ⟨op.isLt, by rwa [BitVec.ofNat_toNat, BitVec.setWidth_eq]⟩

/-- The elements without a property number all of them less those with it. -/
theorem length_filter_not_of_perm {l l' : List Nat} {p : Nat → Prop} [DecidablePred p] (h : (l.filter p).Perm l') :
    (l.filter fun n => ¬ p n).length = l.length - l'.length := by
  have hsplit := List.length_eq_countP_add_countP (fun n => decide (p n)) (l := l)
  simp only [decide_eq_true_eq, List.countP_eq_length_filter, h.length_eq] at hsplit
  omega

/-- The 60 listed bytes are distinct, so that 256 - 60 are not listed. -/
theorem unlisted_numbers_length :
    ((List.range 256).filter fun n => BitVec.ofNat 8 n ∉ implementedOpcodes).length = 196 := by
  rw [length_filter_not_of_perm listed_numbers_perm, List.length_range, List.length_map]
  rfl

/-! ### The fetch and the core's turn -/

/-- A listed opcode byte is fetched with its immediates, whatever they are: memory does not end (20_memory.md R66). -/
theorem State.fetchInstr_of_listed {s : State} (h : s.readByte s.pc ∈ implementedOpcodes) :
    ∃ i s1, s.fetchInstr = .ok (i, s1) := by
  cases hd : decodeOpcode (s.readByte s.pc) with
  | none => exact absurd h ((decodeOpcode_eq_none_iff _).mp hd)
  | some f =>
    simp only [State.fetchInstr, State.fetch8, hd]
    cases f with
    | f1 i => exact ⟨_, _, rfl⟩
    | f2 make => exact ⟨_, _, rfl⟩
    | f3 make => exact ⟨_, _, rfl⟩

/-- No instruction faults or is refused: the trap belongs to the fetch alone. -/
theorem exec_next (i : Instr) (s : State) : ∃ t, exec i s = .next t := by
  cases i <;> exact ⟨_, rfl⟩

/-- An unlisted opcode byte raises `UnimplementedOpcode` (30_encoding.md R97, 60_exceptions.md R241). -/
theorem coreStep_of_unlisted {s : State} (h : s.readByte s.pc ∉ implementedOpcodes) :
    coreStep s = raiseUnimplemented s (s.readByte s.pc) := by
  rw [coreStep, State.fetchInstr_error ((decodeOpcode_eq_none_iff _).mpr h)]

/-- A listed opcode byte is executed, and its instruction completes (30_encoding.md R93, R96). -/
theorem coreStep_of_listed {s : State} (h : s.readByte s.pc ∈ implementedOpcodes) : ∃ t, coreStep s = .next t := by
  obtain ⟨i, s1, hi⟩ := State.fetchInstr_of_listed h
  rw [coreStep, hi]
  exact exec_next i s1

/-- On the core's turn the step is the core's, from the state with that turn taken off the schedule. -/
theorem step_of_coreTurn {s s1 : State} (h : CoreTurn s s1) : step s = coreStep s1 := by
  obtain ⟨hf, hn⟩ := h
  simp only [step, hf, hn]

/-- Taking the core's turn off the schedule changes nothing else. -/
theorem state_of_coreTurn {s s1 : State} (h : CoreTurn s s1) : s1 = { s with schedule := s.schedule.tail } := by
  rw [← s.nextTurn_state, h.2]

theorem opcodeByte_of_coreTurn {s s1 : State} (h : CoreTurn s s1) : s1.readByte s1.pc = s.readByte s.pc := by
  rw [state_of_coreTurn h]
  rfl

/-- Settles O7: the core's step traps on an unlisted byte and completes on a listed one; 196 bytes are unlisted. -/
theorem unlistedOpcodeTraps : Obligations.UnlistedOpcodeTraps := by
  refine ⟨fun s s1 hc => ?_, unlisted_numbers_length⟩
  rw [step_of_coreTurn hc, ← opcodeByte_of_coreTurn hc]
  exact ⟨fun h => ⟨_, _, coreStep_of_unlisted h⟩, coreStep_of_listed⟩

end Sys2Proof.Machine

/-! PROOFS of the statements on the ALU primitives (spec/40_alu_primitives.md): the parity law (O14), SetZSP (O15), and
CMA, CMC and STC (O20). -/

namespace Sys2Proof.Machine

/-! ### Parity and SetZSP -/

/-- Whether a count is odd is the exclusive or of what it counts. -/
theorem odd_length_filter (p : Nat → Bool) (l : List Nat) :
    decide ((l.filter p).length % 2 = 1) = l.foldr (fun k b => p k ^^ b) false := by
  induction l with
  | nil => rfl
  | cons k l ih =>
    rw [List.filter_cons, List.foldr_cons, ← ih]
    cases p k with
    | false => rw [if_neg Bool.false_ne_true, Bool.false_xor]
    | true =>
      rw [if_pos rfl, List.length_cons, Bool.true_xor, ← decide_not, decide_eq_decide]
      omega

theorem parity8_eq_not_odd (v : Byte) : parity8 v = !decide (onesIn v % 2 = 1) := by
  have hfold : decide (onesIn v % 2 = 1) = [0, 1, 2, 3, 4, 5, 6, 7].foldr (fun k b => v.getLsbD k ^^ b) false :=
    odd_length_filter v.getLsbD (List.range 8)
  simp only [hfold, List.foldr_cons, List.foldr_nil, parity8, Bool.xor_assoc, Bool.xor_false]

/-- Even parity counts the 1-bits (40_alu_primitives.md R120). -/
theorem parity8_iff (v : Byte) : parity8 v = true ↔ onesIn v % 2 = 0 := by
  rw [parity8_eq_not_odd, ← decide_not, decide_eq_true_iff]
  omega

/-- The sign bit is set from 128 on (10_state.md R28). -/
theorem sign_iff (v : Byte) : v.getLsbD 7 = true ↔ 128 ≤ v.toNat := by
  have hmsb : v.getLsbD 7 = v.msb := (BitVec.msb_eq_getLsbD_last v).symm
  rw [hmsb, BitVec.msb_eq_decide, decide_eq_true_iff]

/-- The flags SetZSP leaves describe the byte it was given, in the form the statements use (40_alu_primitives.md R121). -/
theorem zspDescribe_setZSP (f : Flags) (v : Byte) : ZspDescribe (f.setZSP v) v := by
  refine ⟨?_, ?_, parity8_iff v⟩
  · rw [Flags.setZSP_z, beq_iff_eq, ← BitVec.toNat_inj, BitVec.toNat_zero]
  · rw [Flags.setZSP_s, sign_iff]

/-- Settles O15: what SetZSP writes describes the byte, and CY and AC are kept. -/
theorem setZspWritesThreeFlags : Obligations.SetZspWritesThreeFlags :=
  fun f v => ⟨zspDescribe_setZSP f v, f.setZSP_cy v, f.setZSP_ac v⟩

/-! ### Z, S and P after a primitive

Every primitive that writes them does so by SetZSP of its result (40_alu_primitives.md R122 to R130, R138); what it
writes to CY and AC afterwards does not touch them. -/

theorem State.aluAdd_zsp (s : State) (v : Byte) (cin : Bool) :
    ZspDescribe (s.aluAdd v cin).flags (s.aluAdd v cin).a :=
  zspDescribe_setZSP s.flags _

theorem State.aluSub_zsp (s : State) (v : Byte) (cin : Bool) :
    ZspDescribe (s.aluSub v cin).flags (s.aluSub v cin).a :=
  s.aluAdd_zsp (~~~v) (!cin)

theorem State.aluAnd_zsp (s : State) (v : Byte) : ZspDescribe (s.aluAnd v).flags (s.aluAnd v).a :=
  zspDescribe_setZSP s.flags _

theorem State.aluOr_zsp (s : State) (v : Byte) : ZspDescribe (s.aluOr v).flags (s.aluOr v).a :=
  zspDescribe_setZSP s.flags _

theorem State.aluXor_zsp (s : State) (v : Byte) : ZspDescribe (s.aluXor v).flags (s.aluXor v).a :=
  zspDescribe_setZSP s.flags _

theorem State.aluDaa_zsp (s : State) : ZspDescribe s.aluDaa.flags s.aluDaa.a :=
  zspDescribe_setZSP s.flags _

theorem State.aluInr_zsp (s : State) (r : Reg) : ZspDescribe (s.aluInr r).flags (s.readReg r + 1#8) :=
  zspDescribe_setZSP s.flags _

theorem State.aluDcr_zsp (s : State) (r : Reg) : ZspDescribe (s.aluDcr r).flags (s.readReg r - 1#8) :=
  zspDescribe_setZSP s.flags _

/-- CMP discards the difference its flags describe (40_alu_primitives.md R130). -/
theorem State.aluCmp_zsp (s : State) (v : Byte) : ZspDescribe (s.aluCmp v).flags (s.a - v) :=
  zspDescribe_setZSP s.flags _

theorem parity_of_zspDescribe {f : Flags} {v : Byte} (h : ZspDescribe f v) : f.p = true ↔ onesIn v % 2 = 0 := by
  obtain ⟨-, -, hp⟩ := h
  exact hp

/-- Settles O14: parity8 counts the 1-bits, and P is a part of what the flags of each primitive describe. -/
theorem parityLaw : Obligations.ParityLaw := by
  refine ⟨parity8_iff, fun s v cin => ⟨?_, fun r => ?_, parity_of_zspDescribe (s.aluCmp_zsp v)⟩⟩
  · have hzsp : ∀ t ∈ [s.aluAdd v cin, s.aluSub v cin, s.aluAnd v, s.aluOr v, s.aluXor v, s.aluDaa],
        ZspDescribe t.flags t.a := by
      simp only [List.forall_mem_cons, List.not_mem_nil, false_implies, implies_true, and_true]
      exact ⟨s.aluAdd_zsp v cin, s.aluSub_zsp v cin, s.aluAnd_zsp v, s.aluOr_zsp v, s.aluXor_zsp v, s.aluDaa_zsp⟩
    exact fun t ht => parity_of_zspDescribe (hzsp t ht)
  · exact ⟨parity_of_zspDescribe (s.aluInr_zsp r), parity_of_zspDescribe (s.aluDcr_zsp r)⟩

/-! ### CMA, CMC and STC -/

/-- The complement is the difference from 255 (40_alu_primitives.md R135). -/
theorem State.aluCma_a_toNat (s : State) : s.aluCma.a.toNat = 255 - s.a.toNat :=
  BitVec.toNat_not

/-- The decoder rejects a byte that is not listed, whatever follows it (30_encoding.md R97). -/
theorem decode_of_unlisted {op : Byte} (rest : List Byte) (h : op ∉ implementedOpcodes) :
    decode (op :: rest) = .error (.unimplemented op) := by
  simp only [decode, (decodeOpcode_eq_none_iff op).mpr h]

/-- None of the bytes the spec names for CMA, CMC and STC is listed (40_alu_primitives.md R135 to R137). -/
theorem complement_and_carry_unlisted : ∀ op ∈ [0x2F#8, 0x3F#8, 0x37#8], op ∉ implementedOpcodes := by decide

/-- Settles O20: CMA by the number of a complement, CMC and STC by their definitions, and the three bytes are unlisted. -/
theorem complementAndCarryPrimitives : Obligations.ComplementAndCarryPrimitives :=
  ⟨fun s => ⟨s.aluCma_a_toNat, rfl⟩, fun _ => rfl, fun _ => rfl,
    fun op hop => decode_of_unlisted [] (complement_and_carry_unlisted op hop)⟩

end Sys2Proof.Machine

/-! PROOFS of the statements on the control instructions (spec/41_control.md): CALL (O22), RET and the call that returns
(O23), DI (O26). Before them, what ties a step to the instruction the bytes at PC decode to. -/

namespace Sys2Proof

/-! ### Rows of the decoder's table -/

/-- Whatever a format makes of its immediates is encoded as the opcode byte `op` and those immediates (30_encoding.md
R91, R92). -/
def Format.MakesOpcode (op : Byte) : Format → Prop
  | .f1 i => encode i = [op]
  | .f2 make => ∀ v, encode (make v) = [op, v]
  | .f3 make => ∀ w, encode (make w) = op :: wordBytes w

/-- Every row of the decoder's table makes instructions of its own opcode byte (30_encoding.md R95, R96). -/
theorem opcodeTable_makesOpcode : ∀ row ∈ opcodeTable, row.2.MakesOpcode row.1 := by
  simp only [opcodeTable, opcodeTableControl, opcodeTableLoadStore, opcodeTableArithLogic, opcodeTableStack,
    opcodeTableIo, List.forall_mem_append, List.forall_mem_cons]
  simp [Format.MakesOpcode, encode, Instr.opcode, Instr.immediates]

theorem makesOpcode_of_decodeOpcode {op : Byte} {f : Format} (h : decodeOpcode op = some f) : f.MakesOpcode op := by
  obtain ⟨before, after, hrow, -⟩ := List.lookup_eq_some_iff.mp h
  exact opcodeTable_makesOpcode (op, f) (hrow ▸ List.mem_append_right before List.mem_cons_self)

/-- The bytes an instruction was decoded from begin with its encoding (30_encoding.md R91 to R93). -/
theorem eq_encode_append_of_decode {bytes rest : List Byte} {i : Instr} (h : decode bytes = .ok (i, rest)) :
    bytes = encode i ++ rest := by
  unfold decode at h
  split at h
  · cases h
  · next op tail =>
    split at h
    · cases h
    · next hop =>
      cases h
      rw [makesOpcode_of_decodeOpcode hop]; rfl
    · next make hop =>
      split at h
      · cases h
        rw [makesOpcode_of_decodeOpcode hop]; rfl
      · cases h
    · next make hop =>
      split at h
      · cases h
        rw [makesOpcode_of_decodeOpcode hop, wordBytes, Machine.hi8_pair, Machine.lo8_pair]; rfl
      · cases h

namespace Machine

/-! ### The step of a decoded instruction -/

/-- On the core's turn the step is the meaning of the instruction at PC, run past its bytes (30_encoding.md R93). -/
theorem step_of_aboutToRun {s s1 : State} {i : Instr} (h : AboutToRun s s1 i) : step s = exec i (pastInstr s1 i) := by
  obtain ⟨hturn, rest, hdecode⟩ := h
  have hlength : 3 = i.size + rest.length := by
    simpa [State.bytesAtPc, Instr.size] using congrArg List.length (eq_encode_append_of_decode hdecode)
  have hdecode1 : decode s1.bytesAtPc = .ok (i, rest) := by
    rw [state_of_coreTurn hturn]
    exact hdecode
  rw [step_of_coreTurn hturn, coreStep, State.fetchInstr_ok hdecode1, pastInstr, hlength, Nat.add_sub_cancel]

/-! ### CALL -/

theorem lo8_eq_ofNat (w : Word) : lo8 w = BitVec.ofNat 8 w.toNat :=
  BitVec.eq_of_toNat_eq (by rw [lo8_toNat, BitVec.toNat_ofNat])

theorem hi8_eq_ofNat (w : Word) : hi8 w = BitVec.ofNat 8 (w.toNat / 256) := by
  have hlt : w.toNat / 256 < 2 ^ 8 := by have := w.isLt; omega
  exact BitVec.eq_of_toNat_eq (by rw [hi8_toNat, BitVec.toNat_ofNat, Nat.mod_eq_of_lt hlt])

/-- A push in the form in which the statements give it (41_control.md R150). -/
theorem State.pushed_push16 (s : State) (w : Word) : Pushed s (s.push16 w) w := by
  refine ⟨rfl, ?_, ?_, fun x hhi hlo => ?_⟩
  · rw [State.readByte_push16, if_neg (word_sub_one_ne_sub_two s.sp).symm, if_pos rfl, hi8_toNat]
  · rw [State.readByte_push16, if_pos rfl, lo8_toNat]
  · rw [State.readByte_push16, if_neg hlo.symm, if_neg hhi.symm]

/-- CALL is a push of PC and a jump (41_control.md R159). -/
theorem exec_call (adr : Word) (s : State) : exec (.call adr) s = .next { s.push16 s.pc with pc := adr } := rfl

/-- The step of a CALL pushes the opcode's address + 3 (41_control.md R159). -/
theorem step_call {s s1 : State} {adr : Word} (h : AboutToRun s s1 (.call adr)) :
    step s = .next { s.push16 (s.pc + 3#16) with pc := adr, schedule := s.schedule.tail } := by
  rw [step_of_aboutToRun h, exec_call, state_of_coreTurn h.1]
  rfl

/-- Settles O22: CALL is a push and a jump, on a PC that the step has moved past the three bytes. -/
theorem callResult : Obligations.CallResult := by
  refine ⟨fun adr => ?_, fun s adr => ?_, fun s s1 adr h => ?_⟩
  · rw [← lo8_eq_ofNat, ← hi8_eq_ofNat]
    rfl
  · exact ⟨_, exec_call adr s, s.pushed_push16 s.pc, rfl, rfl⟩
  · exact ⟨_, step_call h, s.pushed_push16 (s.pc + 3#16), rfl⟩

/-! ### RET -/

/-- RET is the return every return shares (41_control.md R160). -/
theorem exec_ret (s : State) : exec .ret s = .next s.returnFromStack := rfl

/-- A word read as the number its two bytes make. -/
theorem State.readWord_eq_ofNat (s : State) (addr : Word) :
    s.readWord addr = BitVec.ofNat 16 ((s.readByte addr).toNat + 256 * (s.readByte (addr + 1#16)).toNat) := by
  rw [← State.readWord_toNat, BitVec.ofNat_toNat, BitVec.setWidth_eq]

/-- A byte 0xC9 at PC is a RET, whatever follows it (30_encoding.md R96). -/
theorem aboutToRun_ret {s s1 : State} (hop : s.readByte s.pc = 0xC9#8) (h : CoreTurn s s1) : AboutToRun s s1 .ret :=
  ⟨h, [s.readByte (s.pc + 1#16), s.readByte (s.pc + 2#16)], by rw [State.bytesAtPc, hop]; rfl⟩

/-- The step of a RET takes PC from the top of the stack (41_control.md R160). -/
theorem step_ret {s s1 : State} (h : AboutToRun s s1 .ret) :
    step s = .next { s with pc := s.readWord s.sp, sp := s.sp + 2#16, schedule := s.schedule.tail } := by
  rw [step_of_aboutToRun h, exec_ret, state_of_coreTurn h.1]
  rfl

/-- On a core that is not faulted the schedule alone decides whether the turn is the core's (log 2). -/
theorem coreTurn_of_headD {s : State} (hf : s.faulted = .no) (hturn : s.schedule.headD .core = .core) :
    CoreTurn s s.nextTurn.2 :=
  ⟨hf, Prod.ext (s.nextTurn_turn.trans hturn) rfl⟩

/-- Settles O23: what CALL pushed stands at the SP it left, so the RET at its target reads it back. -/
theorem retResult : Obligations.RetResult := by
  refine ⟨rfl, fun s => ?_, fun s s1 adr hcall hturn hop => ?_⟩
  · rw [exec_ret, State.returnFromStack_eq, State.readWord_eq_ofNat]
  · have hstep := step_call hcall
    obtain ⟨hcore, -⟩ := hcall
    rw [state_of_coreTurn hcore, State.nextTurn_turn] at hturn
    obtain ⟨hf, -⟩ := hcore
    have hret := aboutToRun_ret (hop _ hstep) (coreTurn_of_headD hf hturn)
    exact ⟨_, _, hstep, step_ret hret, s.readWord_push16 (s.pc + 3#16), BitVec.sub_add_cancel s.sp 2#16⟩

/-! ### DI -/

/-- A request the core does not accept is dropped (60_exceptions.md R249). -/
theorem injectInterrupt_of_not_accepts {s : State} {v : Byte} (hv : vectorOk v = true)
    (h : s.acceptsInterrupt = false) : injectInterrupt v s = .next s := by
  rw [injectInterrupt, if_pos hv, h, if_neg Bool.false_ne_true]

/-- Settles O26: with IE clear the core accepts no request. -/
theorem diResult : Obligations.DiResult :=
  ⟨rfl, fun _ => ⟨_, rfl, rfl, fun _ hv => injectInterrupt_of_not_accepts hv rfl⟩⟩

end Machine

end Sys2Proof

/-! PROOFS of the statements on the stack group (spec/44_stack.md): XCHG (O42). -/

namespace Sys2Proof.Machine

/-! ### XCHG -/

/-- XCHG is the exchange of the two pairs (44_stack.md R214). -/
theorem exec_xchg (s : State) : exec .xchg s = .next { s with d := s.h, e := s.l, h := s.d, l := s.e } := rfl

/-- The exchange is its own inverse. -/
theorem exec_xchg_exchanged (s : State) :
    exec .xchg { s with d := s.h, e := s.l, h := s.d, l := s.e } = .next s := by
  rw [exec_xchg]

/-- Settles O42: XCHG runs as an exchange, and a second exchange undoes the first. -/
theorem xchgResult : Obligations.XchgResult :=
  ⟨rfl, fun s => ⟨_, exec_xchg s, rfl, exec_xchg_exchanged s⟩⟩

end Sys2Proof.Machine

/-! PROOFS of the statements on the ports and the shift hardware (spec/45_io.md): the shift window of IN 3 (O45). -/

namespace Sys2Proof.Machine

/-! ### The shift window -/

/-- The window is that many bits down the 16-bit shift register (45_io.md R226). -/
theorem shiftWindow_toNat (hi lo : Byte) (offset : BitVec 3) :
    (shiftWindow hi lo offset).toNat = (hi.toNat * 256 + lo.toNat) / 2 ^ (8 - offset.toNat) % 256 := by
  rw [shiftWindow, lo8_toNat, BitVec.toNat_ushiftRight, Nat.shiftRight_eq_div_pow, pair_toNat]

/-- A shift right by what is left of a byte is a shift left followed by dropping a byte (45_io.md R226). -/
theorem div_two_pow_eight_sub {k : Nat} (hk : k ≤ 8) (w : Nat) : w / 2 ^ (8 - k) = w * 2 ^ k / 256 := by
  have hbyte : 2 ^ (8 - k) * 2 ^ k = 256 := Nat.pow_sub_mul_pow 2 hk
  rw [← hbyte, Nat.mul_div_mul_right w _ (Nat.two_pow_pos k)]

/-- The shift amount is at least 1, so the window sees the low byte only without its bit 0 (45_io.md R226). -/
theorem shiftWindow_congr_lo (hi : Byte) {lo lo' : Byte} (offset : BitVec 3) (h : lo.toNat / 2 = lo'.toNat / 2) :
    shiftWindow hi lo offset = shiftWindow hi lo' offset := by
  have hamount : 2 ^ (8 - offset.toNat) = 2 * 2 ^ (7 - offset.toNat) := by
    rw [← Nat.pow_succ']
    congr 1
    have := offset.isLt
    omega
  have hhalf : (hi.toNat * 256 + lo.toNat) / 2 = (hi.toNat * 256 + lo'.toNat) / 2 := by omega
  apply BitVec.eq_of_toNat_eq
  rw [shiftWindow_toNat, shiftWindow_toNat, hamount, ← Nat.div_div_eq_div_mul, hhalf, Nat.div_div_eq_div_mul]

/-- Flipping bit 0 leaves the bits above it. -/
theorem xor_one_toNat_div_two (v : Byte) : (v ^^^ 1#8).toNat / 2 = v.toNat / 2 := by
  rw [BitVec.toNat_xor, Nat.xor_div_two]
  exact Nat.xor_zero _

/-! ### IN 3 -/

/-- IN 3 puts the window in A and does nothing else (45_io.md R222, R230). -/
theorem exec_inp_shift (s : State) :
    exec (.inp 0x03#8) s = .next { s with a := shiftWindow s.shiftHi s.shiftLo s.shiftOffset } := rfl

/-- Settles O45: IN 3 loads the window, whose two forms are one number and neither of which reaches bit 0 of shift_lo. -/
theorem inShiftWindow : Obligations.InShiftWindow := by
  intro s
  have hoffset : s.shiftOffset.toNat ≤ 8 := by have := s.shiftOffset.isLt; omega
  have hwindow := shiftWindow_toNat s.shiftHi s.shiftLo s.shiftOffset
  refine ⟨_, exec_inp_shift s, hwindow, ?_, rfl, ?_⟩
  · rw [← div_two_pow_eight_sub hoffset]
    exact hwindow
  · rw [exec_inp_shift, shiftWindow_congr_lo s.shiftHi s.shiftOffset (xor_one_toNat_div_two s.shiftLo)]

end Sys2Proof.Machine

/-! PROOFS of the statements on exceptions and interrupts (spec/60_exceptions.md): interrupt entry (O48). -/

namespace Sys2Proof.Machine

/-! ### The eight vectors -/

/-- Each 8n below 0x40 is a vector (60_exceptions.md R247). -/
theorem vectorOk_eight_mul : ∀ n < 8, vectorOk (BitVec.ofNat 8 (8 * n)) = true := by decide

/-- A vector's address is the vector itself, on the zero page (60_exceptions.md R250). -/
theorem vectorAddress_toNat (v : Byte) : (vectorAddress v).toNat = v.toNat := by
  rw [vectorAddress, pair_toNat, BitVec.toNat_ofNat, Nat.zero_mod, Nat.zero_mul, Nat.zero_add]

theorem vectorAddress_eight_mul {n : Nat} (hn : n < 8) : (vectorAddress (BitVec.ofNat 8 (8 * n))).toNat = 8 * n := by
  have hbyte : 8 * n < 2 ^ 8 := by omega
  rw [vectorAddress_toNat, BitVec.toNat_ofNat, Nat.mod_eq_of_lt hbyte]

/-! ### Interrupt entry -/

/-- With IE = 0 no request is accepted (60_exceptions.md R249). -/
theorem acceptsInterrupt_of_ie_false {s : State} (hie : s.ie = false) : s.acceptsInterrupt = false := by
  rw [State.acceptsInterrupt, hie, Bool.false_and]

/-- A request the core accepts is the entry (60_exceptions.md R249, R250). -/
theorem injectInterrupt_of_accepts {s : State} {v : Byte} (hv : vectorOk v = true) (hie : s.ie = true)
    (hf : s.faulted = .no) : injectInterrupt v s = .next (s.enterInterrupt v) := by
  have haccepts : s.acceptsInterrupt = true := by rw [State.acceptsInterrupt, hie, hf]; rfl
  rw [injectInterrupt, if_pos hv, if_pos haccepts]

/-- Entry pushes PC as CALL does; the new PC and IE are no part of what a push says (60_exceptions.md R250). -/
theorem pushed_enterInterrupt (s : State) (v : Byte) : Pushed s (s.enterInterrupt v) s.pc :=
  s.pushed_push16 s.pc

/-- Settles O48: an accepted request is the entry, a push of PC and a jump that clears IE, so the next one is dropped. -/
theorem interruptEntry : Obligations.InterruptEntry := by
  intro s n hn
  have hdropped {t : State} {m : Nat} (hm : m < 8) (hie : t.ie = false) :
      injectInterrupt (BitVec.ofNat 8 (8 * m)) t = .next t :=
    injectInterrupt_of_not_accepts (vectorOk_eight_mul m hm) (acceptsInterrupt_of_ie_false hie)
  refine ⟨fun hie hf => ?_, hdropped hn⟩
  have hentry := injectInterrupt_of_accepts (vectorOk_eight_mul n hn) hie hf
  exact ⟨_, hentry, pushed_enterInterrupt s _, vectorAddress_eight_mul hn, s.enterInterrupt_ie _, rfl,
    fun _ hm => hdropped hm (s.enterInterrupt_ie _)⟩

end Sys2Proof.Machine

/-! PROOFS of the statements on the encoding (spec/30_encoding.md): decoding and encoding undo each other (O1, O2), the
accepted opcodes and the lengths (O3), and words of the spec (O4). -/

namespace Sys2Proof

/-! ### Decoding what was encoded -/

/-- Every instruction has its row in the decoder's table (30_encoding.md R96). -/
theorem Laws.Row.of_instr : ∀ i : Instr, Laws.Row.Statement i
  | .nop => nop | .lxiB w => lxiB w | .dcrB => dcrB | .mviB v => mviB v | .dadB => dadB | .dcrC => dcrC
  | .mviC v => mviC v | .rrc => rrc | .lxiD w => lxiD w | .inxD => inxD | .dadD => dadD | .ldaxD => ldaxD
  | .lxiH w => lxiH w | .inxH => inxH | .mviH v => mviH v | .daa => daa | .dadH => dadH | .lxiSP w => lxiSP w
  | .sta w => sta w | .mviM v => mviM v | .lda w => lda w | .dcrA => dcrA | .mviA v => mviA v | .movDM => movDM
  | .movEM => movEM | .movHM => movHM | .movLA => movLA | .movMA => movMA | .movAD => movAD | .movAE => movAE
  | .movAH => movAH | .movAL => movAL | .movAM => movAM | .anaA => anaA | .xraA => xraA | .rnz => rnz
  | .popB => popB | .jnz w => jnz w | .jmp w => jmp w | .pushB => pushB | .adi v => adi v | .rz => rz
  | .ret => ret | .jz w => jz w | .call w => call w | .popD => popD | .jnc w => jnc w | .out v => out v
  | .pushD => pushD | .jc w => jc w | .inp v => inp v | .popH => popH | .pushH => pushH | .ani v => ani v
  | .xchg => xchg | .popPSW => popPSW | .di => di | .pushPSW => pushPSW | .ei => ei | .cpi v => cpi v

/-- The decoder reads back what the encoder wrote, and leaves what follows (30_encoding.md R91 to R93). -/
theorem decode_encode_append (i : Instr) (rest : List Byte) : decode (encode i ++ rest) = .ok (i, rest) := by
  rcases Laws.Row.of_instr i with ⟨j, hop, rfl, himm⟩ | ⟨make, v, hop, rfl, himm⟩ | ⟨make, w, hop, rfl, himm⟩
  · simp only [encode, himm, List.cons_append, List.nil_append, decode, hop]
  · simp only [encode, himm, List.cons_append, List.nil_append, decode, hop]
  · simp only [encode, himm, wordBytes, List.cons_append, List.nil_append, decode, hop, Machine.pair_hi8_lo8]

/-- Settles O1: each instruction's opcode selects the row that rebuilds it from its immediates. -/
theorem decodeEncodeInverse : Obligations.DecodeEncodeInverse :=
  decode_encode_append

/-- Settles O2: each row of the table makes only instructions of its own opcode byte. -/
theorem encodeDecodeInverse : Obligations.EncodeDecodeInverse :=
  fun _ _ _ => eq_encode_append_of_decode

/-! ### The accepted opcodes and the lengths -/

/-- Whatever an accepted opcode byte's format, two more bytes complete it (30_encoding.md R90). -/
theorem decode_of_listed {op : Byte} (b1 b2 : Byte) (rest : List Byte) (h : op ∈ implementedOpcodes) :
    ∃ i after, decode (op :: b1 :: b2 :: rest) = .ok (i, after) := by
  cases hop : decodeOpcode op with
  | none => exact absurd h ((Machine.decodeOpcode_eq_none_iff op).mp hop)
  | some f =>
    simp only [decode, hop]
    cases f with
    | f1 i => exact ⟨_, _, rfl⟩
    | f2 make => exact ⟨_, _, rfl⟩
    | f3 make => exact ⟨_, _, rfl⟩

theorem opcode_of_decode {op : Byte} {bytes after : List Byte} {i : Instr} (h : decode (op :: bytes) = .ok (i, after)) :
    i.opcode = op := by
  have hbytes := eq_encode_append_of_decode h
  exact (List.cons.inj hbytes).1.symm

theorem opcode_listed (i : Instr) : i.opcode ∈ implementedOpcodes := by
  refine Decidable.byContradiction fun hop => ?_
  have hrejected := Machine.decode_of_unlisted i.immediates hop
  have haccepted := decode_encode_append i []
  rw [List.append_nil, encode, hrejected] at haccepted
  cases haccepted

/-- The two lists of R96 give the length of every instruction by its opcode byte (30_encoding.md R90, R96). -/
theorem size_eq_of_opcode (i : Instr) :
    i.size = if i.opcode ∈ threeByteOpcodes then 3 else if i.opcode ∈ twoByteOpcodes then 2 else 1 := by
  cases i <;> rfl

/-- Settles O3: the table has exactly the listed bytes, and each row makes instructions of its own byte. -/
theorem decoderAcceptsExactlySixty : Obligations.DecoderAcceptsExactlySixty := by
  refine ⟨rfl, fun op b1 b2 rest => ⟨fun h => ?_, Machine.decode_of_unlisted rest⟩,
    fun i => ⟨opcode_listed i, size_eq_of_opcode i⟩⟩
  obtain ⟨i, after, hdecode⟩ := decode_of_listed b1 b2 rest h
  exact ⟨i, after, hdecode, opcode_of_decode hdecode⟩

/-- Settles O4: each word is the encoding of its instruction, and 0x76 is not listed. -/
theorem specWordsDecode : Obligations.SpecWordsDecode :=
  ⟨decode_encode_append (.lxiSP 0x2400) [], decode_encode_append (.mviA 0x42) [], decode_encode_append (.sta 0x2000) [],
    decode_encode_append (.call 0x0010) [], decode_encode_append .ret [], decode_encode_append (.jnz 0x1234) [],
    decode_encode_append (.adi 0x20) [], decode_encode_append (.out 0x04) [], decode_encode_append .pushB [],
    decode_encode_append .popB [], Machine.decode_of_unlisted [] (by decide)⟩

/-! ### The step -/

namespace Machine

/-- The step of a decoded instruction returns the cycle count of its opcode (70_reset_and_hazards.md R280). -/
theorem stepCycles_of_aboutToRun {s s1 : State} {i : Instr} (h : AboutToRun s s1 i) :
    stepCycles s = some (Config.cycles i.opcode) := by
  obtain ⟨hturn, rest, hdecode⟩ := h
  have hdecode1 : decode s1.bytesAtPc = .ok (i, rest) := by
    rw [state_of_coreTurn hturn]
    exact hdecode
  obtain ⟨hf, hn⟩ := hturn
  simp only [stepCycles, hf, hn, State.fetchInstr_ok hdecode1]

/-- Settles O5: the fetch reads what the decoder reads, and the core's turn is all that left the schedule. -/
theorem stepRunsDecodedInstruction : Obligations.StepRunsDecodedInstruction :=
  fun _ _ _ h => ⟨step_of_aboutToRun h, stepCycles_of_aboutToRun h, state_of_coreTurn h.1⟩

theorem nextTurn_of_schedule {s : State} {turn : Turn} {rest : List Turn} (h : s.schedule = turn :: rest) :
    s.nextTurn = (turn, { s with schedule := rest }) := by
  rw [State.nextTurn, h]

/-- Settles O6: the turn on the schedule is the host's. -/
theorem stepTakesHostTurn : Obligations.StepTakesHostTurn := by
  intro s m rest hf hs
  have hturn := nextTurn_of_schedule hs
  constructor
  · simp only [step, hf, hturn]
  · simp only [stepCycles, hf, hturn]

/-! ### The trap and the faulted core -/

/-- A step that traps returns no cycle count (60_exceptions.md R241). -/
theorem stepCycles_of_unlisted {s s1 : State} (hturn : CoreTurn s s1) (h : s1.readByte s1.pc ∉ implementedOpcodes) :
    stepCycles s = none := by
  obtain ⟨hf, hn⟩ := hturn
  simp only [stepCycles, hf, hn, State.fetchInstr_error ((decodeOpcode_eq_none_iff _).mpr h)]

theorem step_of_faulted {s : State} {pc : Word} {op : Byte} (h : s.faulted = .yes pc op) :
    step s = .fault (.coreFaulted pc op) := by
  simp only [step, h]

theorem acceptsInterrupt_of_faulted {s : State} {pc : Word} {op : Byte} (h : s.faulted = .yes pc op) :
    s.acceptsInterrupt = false := by
  rw [State.acceptsInterrupt, h]
  exact Bool.and_false s.ie

/-- Settles O8: the core's step raises the trap on the state it fetched from, and a faulted core does nothing. -/
theorem unimplementedOpcodeIsFatal : Obligations.UnimplementedOpcodeIsFatal := by
  refine ⟨fun s s1 hturn hop => ?_, fun s pc op v hf hv => ?_⟩
  · have hop1 : s1.readByte s1.pc ∉ implementedOpcodes := by rwa [opcodeByte_of_coreTurn hturn]
    refine ⟨?_, stepCycles_of_unlisted hturn hop1⟩
    rw [step_of_coreTurn hturn, coreStep_of_unlisted hop1, state_of_coreTurn hturn]
    rfl
  · exact ⟨step_of_faulted hf, injectInterrupt_of_not_accepts hv (acceptsInterrupt_of_faulted hf)⟩

/-! ### Conditional jumps and returns -/

/-- The step of a three-byte instruction that is a conditional jump (30_encoding.md R99, 41_control.md R155). -/
theorem step_jumpIf {s s1 : State} {i : Instr} (k : Cond) (adr : Word) (h : AboutToRun s s1 i)
    (hexec : ∀ t, exec i t = .next (t.jumpIf k adr)) (hsize : i.size = 3) :
    step s = .next { s1 with pc := if condHolds s.flags k then adr else s.pc + 3#16 } := by
  rw [step_of_aboutToRun h, hexec, State.jumpIf_eq, pastInstr, hsize, state_of_coreTurn h.1]

/-- The step of a one-byte conditional return that is not taken (41_control.md R161). -/
theorem step_returnIf_not_taken {s s1 : State} {i : Instr} (k : Cond) (h : AboutToRun s s1 i)
    (hexec : ∀ t, exec i t = .next (t.returnIf k)) (hsize : i.size = 1) (hk : condHolds s.flags k = false) :
    step s = .next { s1 with pc := s.pc + 1#16 } := by
  rw [step_of_aboutToRun h, hexec, State.returnIf_eq, pastInstr, hsize, state_of_coreTurn h.1, if_neg]
  rw [hk]
  exact Bool.false_ne_true

/-- Settles O9: a conditional jump or return runs on a PC that is already past its bytes. -/
theorem conditionalJumpsSkipImmediates : Obligations.ConditionalJumpsSkipImmediates := by
  refine ⟨fun s s1 adr i taken hi h => ?_, fun s s1 h => ?_⟩
  · simp only [List.mem_cons, Prod.mk.injEq, List.not_mem_nil, or_false] at hi
    rcases hi with ⟨rfl, rfl⟩ | ⟨rfl, rfl⟩ | ⟨rfl, rfl⟩ | ⟨rfl, rfl⟩
    · exact step_jumpIf .nz adr h (fun _ => rfl) rfl
    · exact step_jumpIf .z adr h (fun _ => rfl) rfl
    · exact step_jumpIf .nc adr h (fun _ => rfl) rfl
    · exact step_jumpIf .c adr h (fun _ => rfl) rfl
  · rcases h with ⟨h, hz⟩ | ⟨h, hz⟩
    · exact step_returnIf_not_taken .nz h (fun _ => rfl) rfl (by rw [condHolds, hz]; rfl)
    · exact step_returnIf_not_taken .z h (fun _ => rfl) rfl hz

end Machine

end Sys2Proof

/-! PROOFS of the statements on memory (spec/20_memory.md, spec/10_state.md): the word write (O12), and that canonical
memories that read alike are equal (O13). -/

namespace Sys2Proof.Machine

/-! ### The word write -/

theorem State.readByte_writeWord (s : State) (addr w x : Word) :
    (s.writeWord addr w).readByte x =
      if addr + 1#16 = x then hi8 w else if addr = x then lo8 w else s.readByte x := by
  rw [State.writeWord, State.readByte_writeByte, State.readByte_writeByte]

/-- Settles O12: the two bytes of the word stand at two different addresses. -/
theorem wordWriteThenRead : Obligations.WordWriteThenRead := by
  refine fun s addr w => ⟨?_, fun x hlo hhi => ?_, rfl⟩
  · have hne : addr + 1#16 ≠ addr := (word_ne_add_one addr).symm
    rw [State.readWord, State.readByte_writeWord, State.readByte_writeWord, if_pos rfl, if_neg hne, if_pos rfl,
      pair_hi8_lo8]
  · rw [State.readByte_writeWord, if_neg hhi.symm, if_neg hlo.symm]

/-! ### The canonical form -/

/-- A canonical memory lists nothing below its bound. -/
theorem Memory.read_of_lt {lo a : Nat} {m : Memory} (hm : Memory.wfFrom lo m = true) (ha : a < lo) :
    m.read a = Memory.unlisted := by
  induction m generalizing lo with
  | nil => rfl
  | cons e m ih =>
    obtain ⟨k, v⟩ := e
    obtain ⟨hlo, -, -, hm⟩ := Memory.wfFrom_cons.1 hm
    rw [Memory.read, if_neg (by omega), ih hm (by omega)]

@[simp] theorem Memory.read_cons_same (k : Nat) (v : Byte) (m : Memory) : Memory.read ((k, v) :: m) k = v :=
  if_pos rfl

/-- The first listed address of a canonical memory is listed in every memory that reads as it does, so the latter
cannot begin above it. -/
theorem Memory.not_lt_of_reads_alike {lo k : Nat} {v : Byte} {m m' : Memory}
    (hm : Memory.wfFrom lo ((k, v) :: m) = true) (hread : Memory.read ((k, v) :: m) k = Memory.read m' k) :
    ¬ Memory.wfFrom (k + 1) m' = true := by
  obtain ⟨-, -, hv, -⟩ := Memory.wfFrom_cons.1 hm
  intro hm'
  rw [Memory.read_cons_same, Memory.read_of_lt hm' k.lt_succ_self] at hread
  exact hv hread

/-- Canonical memories that read alike begin at the same address with the same byte, and go on alike. -/
theorem Memory.eq_of_reads_alike {lo : Nat} {m m' : Memory} (hm : Memory.wfFrom lo m = true)
    (hm' : Memory.wfFrom lo m' = true) (hread : ∀ a, a < Config.memorySize → m.read a = m'.read a) : m = m' := by
  induction m generalizing lo m' with
  | nil =>
    cases m' with
    | nil => rfl
    | cons e' m' =>
      obtain ⟨-, hk', -, -⟩ := Memory.wfFrom_cons.1 hm'
      exact absurd rfl (Memory.not_lt_of_reads_alike hm' (hread _ hk').symm)
  | cons e m ih =>
    obtain ⟨k, v⟩ := e
    obtain ⟨-, hk, -, htail⟩ := Memory.wfFrom_cons.1 hm
    cases m' with
    | nil => exact absurd rfl (Memory.not_lt_of_reads_alike hm (hread k hk))
    | cons e' m' =>
      obtain ⟨k', v'⟩ := e'
      obtain ⟨-, hk', hv', htail'⟩ := Memory.wfFrom_cons.1 hm'
      have hkey : k = k' := by
        rcases Nat.lt_trichotomy k k' with hlt | heq | hgt
        · exact absurd (Memory.wfFrom_cons.2 ⟨hlt, hk', hv', htail'⟩) (Memory.not_lt_of_reads_alike hm (hread k hk))
        · exact heq
        · obtain ⟨-, -, hv, -⟩ := Memory.wfFrom_cons.1 hm
          exact absurd (Memory.wfFrom_cons.2 ⟨hgt, hk, hv, htail⟩)
            (Memory.not_lt_of_reads_alike hm' (hread k' hk').symm)
      subst hkey
      have hbyte : v = v' := by simpa using hread k hk
      have hrest : ∀ a, a < Config.memorySize → Memory.read m a = Memory.read m' a := by
        intro a ha
        by_cases hak : k = a
        · rw [Memory.read_of_lt htail (by omega), Memory.read_of_lt htail' (by omega)]
        · simpa [Memory.read, hak] using hread a ha
      rw [hbyte, ih htail htail' hrest]

/-- Settles O13: the 65,536 addresses are all the addresses a canonical memory can list. -/
theorem canonicalMemoryIsUnique : Obligations.CanonicalMemoryIsUnique := by
  refine fun m m' hm hm' hread => Memory.eq_of_reads_alike hm hm' fun a ha => ?_
  have haddr : (BitVec.ofNat 16 a).toNat = a := Nat.mod_eq_of_lt ha
  rw [← haddr]
  exact hread (BitVec.ofNat 16 a)

end Sys2Proof.Machine

/-! PROOFS of the statements on the ALU primitives (spec/40_alu_primitives.md): ADD (O16), SUB (O17), CMP (O18), and the
primitives no opcode reaches (O19). -/

namespace Sys2Proof.Machine

/-! ### ADD, SUB and CMP as numbers -/

theorem State.aluAdd_a_toNat (s : State) (v : Byte) (cin : Bool) :
    (s.aluAdd v cin).a.toNat = (s.a.toNat + v.toNat + cin.toNat) % 256 :=
  BitVec.toNat_ofNat _ 8

theorem State.aluAdd_cy_iff (s : State) (v : Byte) (cin : Bool) :
    (s.aluAdd v cin).flags.cy = true ↔ 256 ≤ s.a.toNat + v.toNat + cin.toNat :=
  carry_iff _

theorem State.aluAdd_ac_iff (s : State) (v : Byte) (cin : Bool) :
    (s.aluAdd v cin).flags.ac = true ↔ 16 ≤ s.a.toNat % 16 + v.toNat % 16 + cin.toNat :=
  auxCarry_iff s.a v cin

/-- Settles O16: the numbers of the sum and of its two carries. -/
theorem addWithCarry : Obligations.AddWithCarry :=
  fun s v cin => ⟨s.aluAdd_a_toNat v cin, s.aluAdd_cy_iff v cin, s.aluAdd_ac_iff v cin, s.aluAdd_zsp v cin,
    s.aluAdd_frame v cin⟩

/-- The complement of the carry-in is 1 less the carry-in. -/
theorem toNat_not_bool (b : Bool) : (!b).toNat = 1 - b.toNat := by
  cases b <;> rfl

/-- Adding the complement and the complemented borrow is subtracting (40_alu_primitives.md R123). -/
theorem State.aluSub_a (s : State) (v : Byte) (cin : Bool) :
    (s.aluSub v cin).a = s.a - v - BitVec.ofNat 8 cin.toNat := by
  have hsum : (s.aluSub v cin).a.toNat = (s.a.toNat + (~~~v).toNat + (!cin).toNat) % 256 :=
    s.aluAdd_a_toNat (~~~v) (!cin)
  apply BitVec.eq_of_toNat_eq
  rw [hsum, BitVec.toNat_not, toNat_not_bool, BitVec.toNat_sub, BitVec.toNat_sub, BitVec.toNat_ofNat]
  have := v.isLt
  have := cin.toNat_le
  omega

/-- CY after SUB is the borrow: the addition of the complement carries exactly when there is none. -/
theorem State.aluSub_cy_iff (s : State) (v : Byte) (cin : Bool) :
    (s.aluSub v cin).flags.cy = true ↔ s.a.toNat < v.toNat + cin.toNat := by
  have hcy : (s.aluSub v cin).flags.cy = !(s.aluAdd (~~~v) (!cin)).flags.cy := rfl
  rw [hcy, Bool.not_eq_true', ← Bool.not_eq_true, State.aluAdd_cy_iff, BitVec.toNat_not, toNat_not_bool]
  have := v.isLt
  have := cin.toNat_le
  omega

theorem State.aluSub_ac_iff (s : State) (v : Byte) (cin : Bool) :
    (s.aluSub v cin).flags.ac = true ↔ v.toNat % 16 + cin.toNat ≤ s.a.toNat % 16 := by
  have hac : (s.aluSub v cin).flags.ac = (s.aluAdd (~~~v) (!cin)).flags.ac := rfl
  rw [hac, State.aluAdd_ac_iff, BitVec.toNat_not, toNat_not_bool]
  have := v.isLt
  have := cin.toNat_le
  omega

/-- Settles O17: the addition performed, read as a difference, a borrow and a carry out of bit 3. -/
theorem subIsDifferenceWithBorrow : Obligations.SubIsDifferenceWithBorrow :=
  fun s v cin => ⟨s.aluSub_a v cin, s.aluSub_cy_iff v cin, s.aluSub_ac_iff v cin, s.aluSub_zsp v cin,
    s.aluSub_frame v cin⟩

theorem State.aluCmp_cy_iff (s : State) (v : Byte) : (s.aluCmp v).flags.cy = true ↔ s.a.toNat < v.toNat :=
  decide_eq_true_iff

theorem State.aluSub_false_a (s : State) (v : Byte) : (s.aluSub v false).a = s.a - v := by
  rw [State.aluSub_a]
  exact BitVec.sub_zero _

theorem State.aluSub_false_cy (s : State) (v : Byte) : (s.aluSub v false).flags.cy = (s.aluCmp v).flags.cy := by
  rw [Bool.eq_iff_iff, State.aluSub_cy_iff, State.aluCmp_cy_iff]
  rfl

/-- SUB sets Z, S and P from the difference it leaves in A. -/
theorem State.aluSub_flags (s : State) (v : Byte) (cin : Bool) :
    (s.aluSub v cin).flags =
      { s.flags.setZSP (s.aluSub v cin).a with cy := (s.aluSub v cin).flags.cy, ac := (s.aluSub v cin).flags.ac } := by
  rfl

/-- Settles O18: CMP sets Z, S and P from the difference SUB leaves, and CY as SUB does. -/
theorem compareAgreesWithSub : Obligations.CompareAgreesWithSub := by
  refine fun s v => ⟨?_, s.aluCmp_cy_iff v⟩
  rw [State.aluSub_flags, State.aluSub_false_a, State.aluSub_false_cy]
  rfl

/-! ### INR and DCR -/

theorem State.readReg_writeReg_same (s : State) {r : Reg} (v : Byte) (hr : r ≠ .m) :
    (s.writeReg r v).readReg r = v := by
  cases r with
  | m => exact absurd rfl hr
  | _ => rfl

/-- A register other than M holds its value whatever the flags are. -/
theorem State.readReg_with_flags (s : State) {r : Reg} (f : Flags) (hr : r ≠ .m) :
    ({ s with flags := f } : State).readReg r = s.readReg r := by
  cases r with
  | m => exact absurd rfl hr
  | _ => rfl

theorem State.aluInr_readReg (s : State) {r : Reg} (hr : r ≠ .m) : (s.aluInr r).readReg r = s.readReg r + 1#8 := by
  rw [State.aluInr_eq, State.readReg_with_flags _ _ hr, State.readReg_writeReg_same s _ hr]

/-! ### The rotates, bit by bit -/

theorem getLsbD_bit8 (b : Bool) (k : Nat) : (bit8 b).getLsbD k = (b && decide (k = 0)) := by
  cases b with
  | false => simp [bit8]
  | true => simp [bit8, BitVec.getLsbD_one]

/-- A byte moved one place up, with a bit that comes in at bit 0. -/
theorem getLsbD_shiftUp (v : Byte) (b : Bool) {k : Nat} (hk : k < 8) :
    ((v <<< 1) ||| bit8 b).getLsbD k = if k = 0 then b else v.getLsbD (k - 1) := by
  rw [BitVec.getLsbD_or, BitVec.getLsbD_shiftLeft, getLsbD_bit8]
  by_cases h0 : k = 0
  · simp [h0]
  · have h1 : ¬ k < 1 := by omega
    simp [h0, h1, hk]

/-- A byte moved one place down, with a bit that comes in at bit 7. -/
theorem getLsbD_shiftDown (v : Byte) (b : Bool) {k : Nat} (hk : k < 8) :
    ((v >>> 1) ||| (bit8 b <<< 7)).getLsbD k = if k = 7 then b else v.getLsbD (k + 1) := by
  rw [BitVec.getLsbD_or, BitVec.getLsbD_ushiftRight, BitVec.getLsbD_shiftLeft, getLsbD_bit8]
  by_cases h7 : k = 7
  · simp [h7]
  · have hlt : k < 7 := by omega
    simp [h7, hlt, Nat.add_comm]

theorem State.aluRlc_bit (s : State) {k : Nat} (hk : k < 8) :
    s.aluRlc.a.getLsbD ((k + 1) % 8) = s.a.getLsbD k := by
  rw [State.aluRlc, getLsbD_shiftUp _ _ (Nat.mod_lt _ (by decide))]
  by_cases h7 : k = 7
  · rw [h7, if_pos (by rfl)]
  · have hup : (k + 1) % 8 = k + 1 := by omega
    rw [hup, if_neg k.succ_ne_zero, Nat.add_sub_cancel]

theorem State.aluRrc_bit (s : State) {k : Nat} (hk : k < 8) :
    s.aluRrc.a.getLsbD k = s.a.getLsbD ((k + 1) % 8) := by
  rw [State.aluRrc, getLsbD_shiftDown _ _ hk]
  by_cases h7 : k = 7
  · rw [h7, if_pos rfl]
  · have hup : (k + 1) % 8 = k + 1 := by omega
    rw [hup, if_neg h7]

theorem State.aluRal_bit_succ (s : State) {k : Nat} (hk : k < 7) : s.aluRal.a.getLsbD (k + 1) = s.a.getLsbD k := by
  rw [State.aluRal, getLsbD_shiftUp _ _ (Nat.succ_lt_succ hk), if_neg k.succ_ne_zero, Nat.succ_sub_one]

theorem State.aluRal_bit_zero (s : State) : s.aluRal.a.getLsbD 0 = s.flags.cy := by
  rw [State.aluRal, getLsbD_shiftUp _ _ (by decide), if_pos rfl]

theorem State.aluRar_bit (s : State) {k : Nat} (hk : k < 7) : s.aluRar.a.getLsbD k = s.a.getLsbD (k + 1) := by
  rw [State.aluRar, getLsbD_shiftDown _ _ (Nat.lt_succ_of_lt hk), if_neg (Nat.ne_of_lt hk)]

theorem State.aluRar_bit_seven (s : State) : s.aluRar.a.getLsbD 7 = s.flags.cy := by
  rw [State.aluRar, getLsbD_shiftDown _ _ (by decide), if_pos rfl]

/-! ### The rotates undo each other -/

/-- When A and CY are all that can have changed, and both are back, the state is back. -/
theorem State.eq_of_a_of_cy {s t : State} (hframe : t = { s with a := t.a, flags := { s.flags with cy := t.flags.cy } })
    (ha : t.a = s.a) (hcy : t.flags.cy = s.flags.cy) : t = s := by
  rw [hframe, ha, hcy]

theorem State.aluRal_aluRar (s : State) : s.aluRal.aluRar = s := by
  have ha : s.aluRal.aluRar.a = s.a := by
    refine BitVec.eq_of_getLsbD_eq fun k hk => ?_
    by_cases h7 : k = 7
    · rw [h7, State.aluRar_bit_seven]
      rfl
    · have hlt : k < 7 := by omega
      rw [State.aluRar_bit _ hlt, State.aluRal_bit_succ _ hlt]
  have hcy : s.aluRal.aluRar.flags.cy = s.flags.cy := s.aluRal_bit_zero
  exact State.eq_of_a_of_cy rfl ha hcy

theorem State.aluRar_aluRal (s : State) : s.aluRar.aluRal = s := by
  have ha : s.aluRar.aluRal.a = s.a := by
    refine BitVec.eq_of_getLsbD_eq fun k hk => ?_
    cases k with
    | zero =>
      rw [State.aluRal_bit_zero]
      rfl
    | succ k =>
      have hlt : k < 7 := by omega
      rw [State.aluRal_bit_succ _ hlt, State.aluRar_bit _ hlt]
  have hcy : s.aluRar.aluRal.flags.cy = s.flags.cy := s.aluRar_bit_seven
  exact State.eq_of_a_of_cy rfl ha hcy

theorem State.aluRlc_aluRrc_a (s : State) : s.aluRlc.aluRrc.a = s.a := by
  refine BitVec.eq_of_getLsbD_eq fun k hk => ?_
  rw [State.aluRrc_bit _ hk, State.aluRlc_bit _ hk]

/-- Each bit position is the successor of its predecessor, modulo 8. -/
theorem State.aluRrc_aluRlc_a (s : State) : s.aluRrc.aluRlc.a = s.a := by
  refine BitVec.eq_of_getLsbD_eq fun k hk => ?_
  have hlt : (k + 7) % 8 < 8 := Nat.mod_lt _ (by decide)
  have hsucc : k = ((k + 7) % 8 + 1) % 8 := by omega
  rw [hsucc, State.aluRlc_bit _ hlt, State.aluRrc_bit _ hlt]

/-- After `n` RRC every bit stands `n` places down, modulo 8. -/
theorem State.aluRrc_repeat_bit (n : Nat) (s : State) {k : Nat} (hk : k < 8) :
    (Nat.repeat State.aluRrc n s).a.getLsbD k = s.a.getLsbD ((k + n) % 8) := by
  induction n generalizing k with
  | zero => rw [Nat.repeat, Nat.add_zero, Nat.mod_eq_of_lt hk]
  | succ n ih =>
    have hsum : ((k + 1) % 8 + n) % 8 = (k + (n + 1)) % 8 := by omega
    rw [Nat.repeat, State.aluRrc_bit _ hk, ih (Nat.mod_lt _ (by decide)), hsum]

theorem State.aluRrc_eight_a (s : State) : (Nat.repeat State.aluRrc 8 s).a = s.a := by
  refine BitVec.eq_of_getLsbD_eq fun k hk => ?_
  rw [State.aluRrc_repeat_bit 8 s hk, Nat.add_mod_right, Nat.mod_eq_of_lt hk]

/-- Settles O19: INR and DCR by the write of their operand, OR and XOR by their definitions, the rotates bit by bit. -/
theorem unreachedPrimitives : Obligations.UnreachedPrimitives := by
  refine ⟨fun s r hr => ⟨s.aluInr_readReg hr, s.aluInr_zsp r, rfl, rfl, rfl⟩, fun s t v ht => ?_, fun s t v w ht => ?_,
    fun s => ⟨⟨fun k hk => s.aluRlc_bit hk, rfl⟩, ⟨fun k hk => s.aluRal_bit_succ hk, s.aluRal_bit_zero, rfl⟩,
      ⟨fun k hk => s.aluRar_bit hk, s.aluRar_bit_seven, rfl⟩, ?_⟩,
    fun s => ⟨s.aluRal_aluRar, s.aluRar_aluRal, s.aluRlc_aluRrc_a, s.aluRrc_aluRlc_a⟩, State.aluRrc_eight_a⟩
  · simp only [List.mem_cons, Prod.mk.injEq, List.not_mem_nil, or_false] at ht
    rcases ht with ⟨rfl, rfl⟩ | ⟨rfl, rfl⟩
    · exact ⟨s.storesOnly_writeByte s.hl _, s.aluInr_zsp .m, rfl, rfl⟩
    · exact ⟨s.storesOnly_writeByte s.hl _, s.aluDcr_zsp .m, rfl, rfl⟩
  · simp only [List.mem_cons, Prod.mk.injEq, List.not_mem_nil, or_false] at ht
    rcases ht with ⟨rfl, rfl⟩ | ⟨rfl, rfl⟩
    · exact ⟨rfl, s.aluOr_zsp v, rfl, rfl, rfl⟩
    · exact ⟨rfl, s.aluXor_zsp v, rfl, rfl, rfl⟩
  · simp only [List.forall_mem_cons, List.not_mem_nil, false_implies, implies_true, and_true]
    exact ⟨rfl, rfl, rfl⟩

end Sys2Proof.Machine

/-! PROOFS of the statements on the control instructions (spec/41_control.md): the jumps (O21), the conditional returns
(O24), NOP and EI (O25). -/

namespace Sys2Proof.Machine

theorem condHolds_nz_iff (f : Flags) : condHolds f .nz = true ↔ f.z = false :=
  Iff.of_eq (Bool.not_eq_true' f.z)

theorem condHolds_nc_iff (f : Flags) : condHolds f .nc = true ↔ f.cy = false :=
  Iff.of_eq (Bool.not_eq_true' f.cy)

theorem condHolds_z_iff (f : Flags) : condHolds f .z = true ↔ f.z = true := Iff.rfl

theorem condHolds_c_iff (f : Flags) : condHolds f .c = true ↔ f.cy = true := Iff.rfl

/-- A conditional jump in the form the statements give it (41_control.md R155 to R158). -/
theorem State.jumpIf_of_iff {s : State} {k : Cond} {p : Prop} [Decidable p] (adr : Word)
    (hk : condHolds s.flags k = true ↔ p) : s.jumpIf k adr = { s with pc := if p then adr else s.pc } := by
  simp only [State.jumpIf_eq, hk]

/-- A conditional return in the form the statements give it (41_control.md R161, R162). -/
theorem State.returnIf_of_iff {s : State} {k : Cond} {p : Prop} [Decidable p] (hk : condHolds s.flags k = true ↔ p) :
    s.returnIf k = if p then { s with pc := s.readWord s.sp, sp := s.sp + 2#16 } else s := by
  simp only [State.returnIf_eq, hk]

/-- Settles O21: a conditional jump writes PC alone, under its condition. -/
theorem jumpResults : Obligations.JumpResults :=
  fun s adr => ⟨rfl, congrArg Host.Outcome.next (State.jumpIf_of_iff adr (condHolds_nz_iff s.flags)),
    congrArg Host.Outcome.next (State.jumpIf_of_iff adr (condHolds_z_iff s.flags)),
    congrArg Host.Outcome.next (State.jumpIf_of_iff adr (condHolds_nc_iff s.flags)),
    congrArg Host.Outcome.next (State.jumpIf_of_iff adr (condHolds_c_iff s.flags))⟩

/-- Settles O24: a conditional return is the return under its condition, and nothing otherwise. -/
theorem conditionalReturnResults : Obligations.ConditionalReturnResults :=
  fun s => ⟨congrArg Host.Outcome.next (State.returnIf_of_iff (condHolds_nz_iff s.flags)),
    congrArg Host.Outcome.next (State.returnIf_of_iff (condHolds_z_iff s.flags))⟩

/-- Settles O25: EI sets IE, which is all that a request on a core not faulted needs. -/
theorem nopAndEiResults : Obligations.NopAndEiResults :=
  fun _ => ⟨rfl, _, rfl, rfl, fun hf v hv => ⟨_, injectInterrupt_of_accepts hv rfl hf, State.enterInterrupt_ie _ v,
    pushed_enterInterrupt _ v⟩⟩

end Sys2Proof.Machine

/-! PROOFS of the statements on the load and store instructions (spec/42_load_store.md): the register loads (O27), the
loads from memory (O28), the stores (O29). -/

namespace Sys2Proof.Machine

/-- A pair as the number its two bytes make. -/
theorem pair_eq_ofNat (hi lo : Byte) : pair hi lo = BitVec.ofNat 16 (hi.toNat * 256 + lo.toNat) := by
  rw [← pair_toNat, BitVec.ofNat_toNat, BitVec.setWidth_eq]

/-- Settles O27: LXI splits its word into bytes; MVI and MOV write one register. -/
theorem registerLoadResults : Obligations.RegisterLoadResults := by
  intro s w v
  rw [← hi8_eq_ofNat, ← lo8_eq_ofNat]
  exact ⟨rfl, rfl, rfl, rfl, rfl, rfl, rfl, rfl, rfl, rfl, rfl, rfl, rfl⟩

/-- Settles O28: the address is the word of the pair, and the register written last. -/
theorem loadFromMemoryResults : Obligations.LoadFromMemoryResults := by
  intro s adr
  rw [← pair_eq_ofNat, ← pair_eq_ofNat]
  exact ⟨rfl, rfl, rfl, rfl, rfl, rfl⟩

/-- Settles O29: each of the three is one byte write. -/
theorem storeResults : Obligations.StoreResults :=
  fun s => ⟨fun adr => ⟨_, rfl, s.storesOnly_writeByte adr s.a⟩, fun v => ⟨_, rfl, s.storesOnly_writeByte s.hl v⟩,
    ⟨_, rfl, s.storesOnly_writeByte s.hl s.a⟩, pair_toNat s.h s.l⟩

end Sys2Proof.Machine

/-! PROOFS of the statements on the arithmetic and logic instructions (spec/43_arith_logic.md): DCR (O30), INX (O31),
DAD (O32), DAA (O33) and DAA after ADI (O34), RRC (O35), ANA, XRA and ANI (O36), ADI (O37), CPI (O38). -/

namespace Sys2Proof.Machine

/-! ### DCR and INX -/

/-- Settles O30: DCR of a register writes the register, then Z, S and P. -/
theorem dcrResults : Obligations.DcrResults :=
  fun s => ⟨⟨_, rfl, s.aluDcr_zsp .b, rfl, rfl⟩, ⟨_, rfl, s.aluDcr_zsp .c, rfl, rfl⟩,
    ⟨_, rfl, s.aluDcr_zsp .a, rfl, rfl⟩⟩

/-- The word a pair holds after INX, as a number (43_arith_logic.md R191). -/
theorem pair_add_one_toNat (hi lo : Byte) :
    (pair hi lo + 1#16).toNat = (hi.toNat * 256 + lo.toNat + 1) % 65536 := by
  rw [BitVec.toNat_add, pair_toNat]
  rfl

/-- Settles O31: the pair written reads back as the word incremented. -/
theorem inxResults : Obligations.InxResults := by
  intro s
  refine ⟨⟨_, rfl, ?_, pair_toNat _ _, rfl⟩, ⟨_, rfl, ?_, pair_toNat _ _, rfl⟩⟩
  · have hread : (s.incPair .de).de = s.de + 1#16 := s.readPair_writePair .de (s.de + 1#16)
    exact (congrArg BitVec.toNat hread).trans (pair_add_one_toNat s.d s.e)
  · have hread : (s.incPair .hl).hl = s.hl + 1#16 := s.readPair_writePair .hl (s.hl + 1#16)
    exact (congrArg BitVec.toNat hread).trans (pair_add_one_toNat s.h s.l)

/-! ### DAD -/

theorem State.aluDad_hl_toNat (s : State) (v : Word) :
    (s.aluDad v).h.toNat * 256 + (s.aluDad v).l.toNat = (s.h.toNat * 256 + s.l.toNat + v.toNat) % 65536 := by
  have hread : (s.aluDad v).hl = BitVec.ofNat 16 (s.hl.toNat + v.toNat) := s.readPair_writePair .hl _
  rw [← pair_toNat, ← pair_toNat, ← BitVec.toNat_ofNat _ 16]
  exact congrArg BitVec.toNat hread

theorem State.aluDad_cy_iff (s : State) (v : Word) :
    (s.aluDad v).flags.cy = true ↔ 65536 ≤ s.h.toNat * 256 + s.l.toNat + v.toNat := by
  rw [← pair_toNat]
  exact decide_eq_true_iff

/-- Doubling HL carries out exactly when bit 7 of H is set (40_alu_primitives.md R126). -/
theorem State.aluDad_hl_cy (s : State) : (s.aluDad s.hl).flags.cy = s.h.getLsbD 7 := by
  rw [Bool.eq_iff_iff, State.aluDad_cy_iff, sign_iff, State.hl, pair_toNat]
  have := s.l.isLt
  omega

/-- Settles O32: each DAD is the primitive on its pair. -/
theorem dadResults : Obligations.DadResults := by
  refine ⟨rfl, rfl, rfl, decode_of_unlisted [] (by decide), fun s => ⟨fun i rp hi => ?_, _, rfl, s.aluDad_hl_cy⟩⟩
  have hdad (v : Word) (hv : v.toNat = rp) (hexec : exec i s = .next (s.aluDad v)) :
      ∃ t, exec i s = .next t ∧ t.h.toNat * 256 + t.l.toNat = (s.h.toNat * 256 + s.l.toNat + rp) % 65536 ∧
        (t.flags.cy = true ↔ 65536 ≤ s.h.toNat * 256 + s.l.toNat + rp) ∧
        t = { s with h := t.h, l := t.l, flags := { s.flags with cy := t.flags.cy } } := by
    subst hv
    exact ⟨_, hexec, s.aluDad_hl_toNat v, s.aluDad_cy_iff v, s.aluDad_frame v⟩
  rcases hi with ⟨rfl, rfl⟩ | ⟨rfl, rfl⟩ | ⟨rfl, rfl⟩
  · exact hdad s.bc (pair_toNat s.b s.c) rfl
  · exact hdad s.de (pair_toNat s.d s.e) rfl
  · exact hdad s.hl (pair_toNat s.h s.l) rfl

/-! ### DAA -/

/-- DAA's first adjustment as a number (40_alu_primitives.md R138, D8). -/
theorem daaLow_toNat (a : Byte) (ac : Bool) :
    (daaLow a ac).toNat = if 9 < a.toNat % 16 ∨ ac = true then (a.toNat + 6) % 256 else a.toNat := by
  unfold daaLow lowNibble
  split
  · exact BitVec.toNat_add a 6#8
  · rfl

theorem daaHigh_iff (t : Byte) (cy : Bool) : daaHigh t cy = true ↔ 9 < t.toNat / 16 ∨ cy = true :=
  decide_eq_true_iff

/-- DAA's second adjustment as a number (40_alu_primitives.md R138, D8). -/
theorem State.aluDaa_a_toNat (s : State) {low : Nat} (hlow : (daaLow s.a s.flags.ac).toNat = low) :
    s.aluDaa.a.toNat = if 9 < low / 16 ∨ s.flags.cy = true then (low + 96) % 256 else low := by
  subst hlow
  simp only [State.aluDaa, daaHigh_iff]
  split
  · exact BitVec.toNat_add _ 0x60#8
  · rfl

/-- DAA never clears CY: the second adjustment sets it (40_alu_primitives.md R138). -/
theorem State.aluDaa_cy_iff (s : State) {low : Nat} (hlow : (daaLow s.a s.flags.ac).toNat = low) :
    s.aluDaa.flags.cy = true ↔ 9 < low / 16 ∨ s.flags.cy = true := by
  subst hlow
  simp only [State.aluDaa, daaHigh_iff]
  split
  · next h => exact iff_of_true rfl h
  · next h => exact (or_iff_right fun hhigh => h (.inl hhigh)).symm

/-- Settles O33: both adjustments as numbers. -/
theorem daaResult : Obligations.DaaResult := by
  refine fun s => ⟨_, rfl, fun low high hlow hhigh => ?_, s.aluDaa_zsp, rfl, s.aluDaa_frame⟩
  have hlow' : (daaLow s.a s.flags.ac).toNat = low := (daaLow_toNat s.a s.flags.ac).trans hlow.symm
  exact ⟨(s.aluDaa_a_toNat hlow').trans hhigh.symm, s.aluDaa_cy_iff hlow'⟩

/-! ### DAA after an addition of packed-BCD bytes

The sum of two packed-BCD bytes is given by its digit sums: `tens`, and `10 * c + u` for the ones, with `c` the decimal
carry and `u` the digit left (43_arith_logic.md R193). -/

theorem packedBcd_toNat {n : Nat} (hn : n < 100) : (packedBcd n).toNat = n / 10 * 16 + n % 10 := by
  have hbyte : n / 10 * 16 + n % 10 < 2 ^ 8 := by omega
  rw [packedBcd, BitVec.toNat_ofNat, Nat.mod_eq_of_lt hbyte]

/-- The first adjustment leaves the low digit decimal and carries into the high nibble, modulo 16. -/
theorem decimal_low {tens c u sum low : Nat} (hc : c ≤ 1) (hu : u < 10)
    (hsum : sum = (16 * tens + (10 * c + u)) % 256)
    (hlow : low = if 9 < sum % 16 ∨ 16 ≤ 10 * c + u then (sum + 6) % 256 else sum) :
    low = (tens + c) % 16 * 16 + u := by
  obtain rfl | rfl : c = 0 ∨ c = 1 := by omega
  · split at hlow <;> omega
  · split at hlow <;> omega

/-- The second adjustment is made exactly on a decimal carry, but in the band left out, where the first
one wraps to a zero high nibble and the binary sum does not carry. -/
theorem decimal_carry_iff {tens c u : Nat} (htens : tens ≤ 18) (hc : c ≤ 1) (hones : 10 * c + u ≤ 18)
    (hband : ¬ (tens = 15 ∧ c = 1 ∧ u < 6)) :
    9 < (tens + c) % 16 ∨ 256 ≤ 16 * tens + (10 * c + u) ↔ 10 ≤ tens + c := by
  obtain rfl | rfl : c = 0 ∨ c = 1 := by omega
  · omega
  · omega

/-- The second adjustment leaves the high digit decimal. -/
theorem decimal_high {digit u : Nat} (hdigit : digit ≤ 19) (hu : u < 10) :
    (if 10 ≤ digit then (digit % 16 * 16 + u + 96) % 256 else digit % 16 * 16 + u) = digit % 10 * 16 + u := by
  split <;> omega

/-- DAA on the binary sum of two packed-BCD bytes and its carries gives the decimal digits and the decimal carry. -/
theorem State.aluDaa_of_digit_sums {t : State} {tens c u : Nat} (htens : tens ≤ 18) (hc : c ≤ 1) (hu : u < 10)
    (hones : 10 * c + u ≤ 18) (hband : ¬ (tens = 15 ∧ c = 1 ∧ u < 6))
    (hsum : t.a.toNat = (16 * tens + (10 * c + u)) % 256)
    (hcy : t.flags.cy = true ↔ 256 ≤ 16 * tens + (10 * c + u)) (hac : t.flags.ac = true ↔ 16 ≤ 10 * c + u) :
    t.aluDaa.a.toNat = (tens + c) % 10 * 16 + u ∧ (t.aluDaa.flags.cy = true ↔ 10 ≤ tens + c) := by
  have hlow : (daaLow t.a t.flags.ac).toNat = (tens + c) % 16 * 16 + u := by
    apply decimal_low hc hu hsum
    simp only [daaLow_toNat, hac]
  have hnibble : ((tens + c) % 16 * 16 + u) / 16 = (tens + c) % 16 := by omega
  have hcarry := decimal_carry_iff htens hc hones hband
  constructor
  · simp only [t.aluDaa_a_toNat hlow, hnibble, hcy, hcarry]
    exact decimal_high (by omega) hu
  · rw [t.aluDaa_cy_iff hlow, hnibble, hcy, hcarry]

theorem packedBcd_toNat_mod {n : Nat} (hn : n < 100) : (packedBcd n).toNat % 16 = n % 10 := by
  rw [packedBcd_toNat hn]
  omega

/-- Settles O34: ADI leaves the binary sum of the digits and its carries, and DAA makes them decimal. -/
theorem daaAfterAdiIsDecimalSum : Obligations.DaaAfterAdiIsDecimalSum := by
  intro s x y hx hy ha hband
  have hones : 10 * ((x % 10 + y % 10) / 10) + (x % 10 + y % 10) % 10 = x % 10 + y % 10 := Nat.div_add_mod _ 10
  have hbinary : (packedBcd x).toNat + (packedBcd y).toNat =
      16 * (x / 10 + y / 10) + (10 * ((x % 10 + y % 10) / 10) + (x % 10 + y % 10) % 10) := by
    rw [packedBcd_toNat hx, packedBcd_toNat hy, hones]
    omega
  have hsum := s.aluAdd_a_toNat (packedBcd y) false
  have hcy := s.aluAdd_cy_iff (packedBcd y) false
  have hac := s.aluAdd_ac_iff (packedBcd y) false
  rw [ha, Bool.toNat_false, Nat.add_zero, hbinary] at hsum hcy
  rw [ha, Bool.toNat_false, Nat.add_zero, packedBcd_toNat_mod hx, packedBcd_toNat_mod hy, ← hones] at hac
  rw [hbinary] at hband
  obtain ⟨hdigits, hcarry⟩ := State.aluDaa_of_digit_sums (by omega) (by omega) (by omega) (by omega) (by omega)
    hsum hcy hac
  refine ⟨_, _, rfl, rfl, BitVec.eq_of_toNat_eq ?_, ?_, rfl⟩
  · rw [hdigits, packedBcd_toNat (Nat.mod_lt _ (by decide))]
    omega
  · rw [hcarry]
    omega

/-! ### RRC, the logic instructions, ADI and CPI -/

/-- Settles O35: every bit of A, and the bit that leaves it. -/
theorem rrcResult : Obligations.RrcResult :=
  fun s => ⟨_, rfl, fun _ hk => s.aluRrc_bit hk, rfl, rfl⟩

/-- XOR of a byte with itself is 0, which is even in its count of 1-bits (40_alu_primitives.md R129). -/
theorem State.aluXor_self (s : State) :
    s.aluXor s.a = { s with a := 0x00#8, flags := ⟨true, false, true, false, false⟩ } := by
  rw [State.aluXor, BitVec.xor_self]
  rfl

theorem State.aluAnd_self_a (s : State) : (s.aluAnd s.a).a = s.a := BitVec.and_self

/-- Settles O36: AND and XOR of A with itself, and AND with the immediate. -/
theorem logicResults : Obligations.LogicResults := by
  refine fun s v => ⟨⟨(s.aluAnd s.a).flags, ?_, ?_, rfl, ?_⟩, congrArg Host.Outcome.next s.aluXor_self,
    ⟨_, rfl, s.aluAnd_zsp v, rfl, BitVec.getLsbD_or⟩⟩
  · have hkeep : s.aluAnd s.a = { s with flags := (s.aluAnd s.a).flags } := by
      rw [s.aluAnd_frame s.a, s.aluAnd_self_a]
    exact congrArg Host.Outcome.next hkeep
  · simpa only [s.aluAnd_self_a] using s.aluAnd_zsp s.a
  · exact congrArg (BitVec.getLsbD · 3) BitVec.or_self

/-- Settles O37: ADI is ADD with no carry-in. -/
theorem adiResult : Obligations.AdiResult :=
  fun s v => ⟨_, rfl, s.aluAdd_a_toNat v false, s.aluAdd_cy_iff v false, s.aluAdd_ac_iff v false, s.aluAdd_zsp v false,
    s.aluAdd_frame v false⟩

theorem State.aluCmp_z_iff (s : State) (v : Byte) : (s.aluCmp v).flags.z = true ↔ s.a = v := by
  obtain ⟨hz, -, -⟩ := s.aluCmp_zsp v
  rw [hz, ← BitVec.toNat_inj, BitVec.toNat_sub]
  have := s.a.isLt
  have := v.isLt
  omega

/-- Settles O38: CPI is CMP with the immediate. -/
theorem cpiResult : Obligations.CpiResult :=
  fun s v => ⟨_, rfl, s.aluCmp_z_iff v, s.aluCmp_cy_iff v, s.aluCmp_zsp v, rfl⟩

end Sys2Proof.Machine

/-! PROOFS of the statements on the stack group (spec/44_stack.md): PUSH (O39), POP (O40), and a push that is popped
(O41). -/

namespace Sys2Proof.Machine

/-! ### PUSH -/

/-- The flag byte as a number (10_state.md R29, D2). -/
theorem packFlags_toNat (f : Flags) :
    (packFlags f).toNat =
      f.z.toNat + 2 * f.s.toNat + 4 * f.p.toNat + 8 * f.cy.toNat + 16 * f.ac.toNat := by
  obtain ⟨z, s, p, cy, ac⟩ := f
  revert z s p cy ac
  decide

theorem State.pushPair_frame (s : State) (p : StackPair) :
    s.pushPair p = { s with mem := (s.pushPair p).mem, sp := (s.pushPair p).sp } := rfl

/-- A pair is pushed as the number its two bytes make (44_stack.md R210, R211). -/
theorem State.pushed_pushPair (s : State) (p : StackPair) {hi lo : Byte} (hp : s.readStackPair p = pair hi lo) :
    Pushed s (s.pushPair p) (BitVec.ofNat 16 (hi.toNat * 256 + lo.toNat)) := by
  rw [← pair_eq_ofNat, ← hp]
  exact s.pushed_push16 (s.readStackPair p)

/-- Settles O39: each PUSH is one push of its pair, the first-named register high. -/
theorem pushResults : Obligations.PushResults := by
  rintro s i hi lo (⟨rfl, rfl, rfl⟩ | ⟨rfl, rfl, rfl⟩ | ⟨rfl, rfl, rfl⟩ | ⟨rfl, rfl, rfl⟩)
  · exact ⟨_, rfl, s.pushed_pushPair .bc rfl, s.pushPair_frame .bc⟩
  · exact ⟨_, rfl, s.pushed_pushPair .de rfl, s.pushPair_frame .de⟩
  · exact ⟨_, rfl, s.pushed_pushPair .hl rfl, s.pushPair_frame .hl⟩
  · rw [← packFlags_toNat]
    exact ⟨_, rfl, s.pushed_pushPair .psw rfl, s.pushPair_frame .psw⟩

/-! ### POP -/

theorem State.popPair_eq (s : State) (p : StackPair) :
    s.popPair p = ({ s with sp := s.sp + 2#16 } : State).writeStackPair p (s.readWord s.sp) := rfl

theorem State.hi8_readWord (s : State) (addr : Word) : hi8 (s.readWord addr) = s.readByte (addr + 1#16) :=
  hi8_pair _ _

theorem State.lo8_readWord (s : State) (addr : Word) : lo8 (s.readWord addr) = s.readByte addr :=
  lo8_pair _ _

/-- Settles O40: the popped word comes apart into the bytes at SP+1 and SP. -/
theorem popResults : Obligations.PopResults := by
  intro s
  rw [← s.hi8_readWord, ← s.lo8_readWord]
  exact ⟨rfl, rfl, rfl, rfl⟩

/-! ### A push that is popped -/

/-- Writing back what a pair holds changes nothing: for PSW the five flags survive their byte (10_state.md R30). -/
theorem State.writeStackPair_readStackPair (s : State) (p : StackPair) :
    s.writeStackPair p (s.readStackPair p) = s := by
  cases p <;>
    simp only [State.writeStackPair, State.readStackPair, State.writePair, State.bc, State.de, State.hl, State.psw,
      hi8_pair, lo8_pair, unpackFlags_packFlags]

/-- A pop of the pair just pushed leaves the stack bytes as the push wrote them, and nothing else. -/
theorem State.popPair_pushPair (s : State) (p : StackPair) :
    (s.pushPair p).popPair p = { s with mem := (s.pushPair p).mem } := by
  have hword : (s.pushPair p).readWord (s.pushPair p).sp = s.readStackPair p := s.readWord_push16 _
  have hsp : (s.pushPair p).sp + 2#16 = s.sp := BitVec.sub_add_cancel s.sp 2#16
  have hpair : s.readStackPair p = ({ s with mem := (s.pushPair p).mem } : State).readStackPair p := by
    cases p <;> rfl
  rw [State.popPair_eq, hword, hsp, hpair]
  exact State.writeStackPair_readStackPair { s with mem := (s.pushPair p).mem } p

/-- Settles O41: the pop reads back the word that was pushed, into the pair it came from. -/
theorem pushThenPopRestores : Obligations.PushThenPopRestores := by
  intro s p q hpq
  have hrestore (r : StackPair) (hp : exec p s = .next (s.pushPair r)) (hq : ∀ t, exec q t = .next (t.popPair r)) :
      ∃ t u, exec p s = .next t ∧ exec q t = .next u ∧ u = { s with mem := u.mem } ∧
        ∀ x, x ≠ s.sp - 1#16 → x ≠ s.sp - 2#16 → u.readByte x = s.readByte x := by
    obtain ⟨-, -, -, hkeep⟩ := s.pushed_push16 (s.readStackPair r)
    refine ⟨_, _, hp, hq _, ?_, ?_⟩ <;> rw [State.popPair_pushPair]
    exact hkeep
  simp only [List.mem_cons, Prod.mk.injEq, List.not_mem_nil, or_false] at hpq
  rcases hpq with ⟨rfl, rfl⟩ | ⟨rfl, rfl⟩ | ⟨rfl, rfl⟩ | ⟨rfl, rfl⟩
  · exact hrestore .bc rfl fun _ => rfl
  · exact hrestore .de rfl fun _ => rfl
  · exact hrestore .hl rfl fun _ => rfl
  · exact hrestore .psw rfl fun _ => rfl

end Sys2Proof.Machine

/-! PROOFS of the statements on the ports (spec/45_io.md): OUT to the shift hardware (O43) and to the other ports (O44),
IN from the other ports (O46), the host's port writes (O50), and which entries the core touches (O47). -/

namespace Sys2Proof.Machine

/-! ### OUT and IN -/

theorem exec_out (p : Byte) (s : State) : exec (.out p) s = .next (s.ioOut p s.a) := rfl

theorem exec_inp (p : Byte) (s : State) : exec (.inp p) s = .next { s with a := s.ioIn p } := rfl

/-- Settles O43: OUT 2 keeps three bits of A, OUT 4 shifts A in. -/
theorem outToShiftHardware : Obligations.OutToShiftHardware :=
  ⟨fun s => ⟨_, rfl, BitVec.toNat_setWidth 3 s.a, rfl⟩, fun _ => rfl, fun _ _ _ => ⟨_, _, rfl, rfl, rfl, rfl, rfl⟩⟩

/-- A port other than 2 to 5 is written as an entry of the array, where there is one (45_io.md R221). -/
theorem State.ioOut_of_array (s : State) {p : Byte} (v : Byte) (hp : p.toNat < 2 ∨ 5 < p.toNat) :
    s.ioOut p v = s.writePort p.toNat v := by
  rcases s.ioOut_cases p v with ⟨rfl, -⟩ | ⟨rfl, -⟩ | ⟨rfl | rfl, -⟩ | ⟨-, h⟩
  · exact absurd hp (by decide)
  · exact absurd hp (by decide)
  · exact absurd hp (by decide)
  · exact absurd hp (by decide)
  · exact h

/-- A port above 8 has no storage (45_io.md R221, D10). -/
theorem State.writePort_of_le (s : State) {p : Nat} (v : Byte) (hp : 9 ≤ p) : s.writePort p v = s :=
  dif_neg (Nat.not_lt.mpr hp)

/-- Settles O44: an entry is stored, an event is recorded, or nothing happens, by the port. -/
theorem outToOtherPorts : Obligations.OutToOtherPorts := by
  refine ⟨fun s p hp => ?_, fun s p hp => ?_, fun s p hp => ?_⟩
  · have harray : p.toNat < 2 ∨ 5 < p.toNat := by
      simp only [List.mem_cons, List.not_mem_nil, or_false] at hp
      omega
    rw [exec_out, s.ioOut_of_array s.a harray]
    refine ⟨_, rfl, fun k hk => ?_, s.writePort_frame p.toNat s.a⟩
    rw [State.writePort_ports]
    by_cases hkp : k = p.toNat
    · rw [if_pos hkp, if_pos hkp.symm]
    · rw [if_neg hkp, if_neg (Ne.symm hkp)]
  · have hsound : p = 0x03#8 ∨ p = 0x05#8 := by
      simp only [List.mem_cons, List.not_mem_nil, or_false] at hp
      exact hp.imp BitVec.eq_of_toNat_eq BitVec.eq_of_toNat_eq
    rcases hsound with rfl | rfl
    · rfl
    · rfl
  · rw [exec_out, s.ioOut_of_array s.a (.inr (by omega)), s.writePort_of_le s.a hp]

/-- Settles O46: IN 0, 1 and 2 by their own cases, and what is above 3 reads 0. -/
theorem inFromOtherPorts : Obligations.InFromOtherPorts := by
  refine fun s => ⟨rfl, rfl, rfl, fun p hp => ?_⟩
  have hne (k : Byte) (hk : k.toNat < 4) : p ≠ k := by
    rintro rfl
    omega
  rw [exec_inp, State.ioIn, if_neg (hne _ (by decide)), if_neg (hne _ (by decide)), if_neg (hne _ (by decide)),
    if_neg (hne _ (by decide))]

/-! ### The host's port writes -/

/-- A write to one of the nine entries, in the form the statements give it (45_io.md R228). -/
theorem State.writePort_entry (s : State) (v : Byte) {i : Nat} (hi : i < 9) :
    s.writePort i v = { s with ports := (s.writePort i v).ports } ∧ (s.writePort i v).ports[i] = v ∧
      ∀ (k : Nat) (hk : k < 9), k ≠ i → (s.writePort i v).ports[k] = s.ports[k] := by
  refine ⟨s.writePort_frame i v, ?_, fun k hk hne => ?_⟩
  · rw [State.writePort_ports, if_pos rfl]
  · rw [State.writePort_ports, if_neg hne.symm]

theorem portIndexOk_iff (i : Nat) : portIndexOk i = true ↔ i < 9 := decide_eq_true_iff

/-- The old entry that the two bit moves start from. -/
theorem ports_getD (ports : Vector Byte 9) {i : Nat} (hi : i < 9) : ports.toList.getD i 0x00#8 = ports[i] := by
  have hlength : i < ports.toList.length := by rwa [Vector.length_toList]
  rw [List.getD_eq_getElem?_getD, List.getElem?_eq_getElem hlength, Option.getD_some, Vector.getElem_toList]

/-- Settles O50: each of the three is a write of one entry, of a byte made from the old one. -/
theorem hostPortWrites : Obligations.HostPortWrites := by
  intro s i hi v
  have hok := (portIndexOk_iff i).mpr hi
  rw [setInputPort, orInputBit, clearInputBit, if_pos hok, if_pos hok, if_pos hok, ports_getD s.ports hi]
  exact ⟨⟨_, rfl, s.writePort_entry v hi⟩, ⟨_, rfl, s.writePort_entry _ hi⟩, ⟨_, rfl, s.writePort_entry _ hi⟩⟩

/-! ### The entries the core touches -/

/-- A branch looks at the flags alone, so it commutes with changing the port array. -/
theorem State.jumpIf_with_ports (s : State) (k : Cond) (adr : Word) (ports : Vector Byte 9) :
    ({ s with ports := ports } : State).jumpIf k adr = { s.jumpIf k adr with ports := ports } := by
  simp only [State.jumpIf_eq]

theorem State.returnIf_with_ports (s : State) (k : Cond) (ports : Vector Byte 9) :
    ({ s with ports := ports } : State).returnIf k = { s.returnIf k with ports := ports } := by
  simp only [State.returnIf_eq]
  split <;> rfl

/-- IN reads entries 1 and 2 alone (45_io.md R222). -/
theorem State.ioIn_with_ports {s : State} {ports : Vector Byte 9} (h1 : ports[1] = s.ports[1])
    (h2 : ports[2] = s.ports[2]) (p : Byte) : ({ s with ports := ports } : State).ioIn p = s.ioIn p := by
  simp only [State.ioIn, h1, h2]

/-- An instruction other than OUT looks at entries 1 and 2 alone, and writes none. -/
theorem exec_with_ports {i : Instr} {s t : State} {ports : Vector Byte 9} (h1 : ports[1] = s.ports[1])
    (h2 : ports[2] = s.ports[2]) (hout : ∀ p, i ≠ .out p) (h : exec i s = .next t) :
    exec i { s with ports := ports } = .next { t with ports := ports } := by
  cases i
  case jnz adr => cases h; exact congrArg Host.Outcome.next (s.jumpIf_with_ports .nz adr ports)
  case jz adr => cases h; exact congrArg Host.Outcome.next (s.jumpIf_with_ports .z adr ports)
  case jnc adr => cases h; exact congrArg Host.Outcome.next (s.jumpIf_with_ports .nc adr ports)
  case jc adr => cases h; exact congrArg Host.Outcome.next (s.jumpIf_with_ports .c adr ports)
  case rnz => cases h; exact congrArg Host.Outcome.next (s.returnIf_with_ports .nz ports)
  case rz => cases h; exact congrArg Host.Outcome.next (s.returnIf_with_ports .z ports)
  case inp port => cases h; rw [exec_inp, State.ioIn_with_ports h1 h2]
  case out port => exact absurd rfl (hout port)
  all_goals cases h; rfl

/-- Only OUT writes the port array (45_io.md R221). -/
theorem exec_ports_of_ne_out {i : Instr} {s t : State} (hout : ∀ p, i ≠ .out p) (h : exec i s = .next t) :
    t.ports = s.ports := by
  have hsame : exec i s = .next { t with ports := s.ports } := exec_with_ports rfl rfl hout h
  have hkept : t = { t with ports := s.ports } := Host.Outcome.next.inj (h.symm.trans hsame)
  rw [hkept]

/-- OUT writes the entry of its own port, when that is none of 2 to 5 (45_io.md R221, D9). -/
theorem State.ioOut_ports (s : State) (p v : Byte) {k : Nat} (hk : k < 9) :
    (s.ioOut p v).ports[k] = if p.toNat = k ∧ (k < 2 ∨ 5 < k) then v else s.ports[k] := by
  by_cases harray : p.toNat < 2 ∨ 5 < p.toNat
  · rw [s.ioOut_of_array v harray, State.writePort_ports]
    by_cases hp : p.toNat = k
    · rw [if_pos hp, if_pos ⟨hp, hp ▸ harray⟩]
    · rw [if_neg hp, if_neg fun h => hp h.1]
  · rw [if_neg (by rintro ⟨rfl, hp⟩; exact harray hp)]
    rcases s.ioOut_cases p v with ⟨-, h⟩ | ⟨-, h⟩ | ⟨-, h⟩ | ⟨⟨h2, h3, h4, h5⟩, -⟩
    · rw [h]
    · rw [h]
    · rw [h]
    · simp only [ne_eq, ← BitVec.toNat_inj, BitVec.toNat_ofNat] at h2 h3 h4 h5
      omega

theorem State.writePort_with_ports (s : State) (p : Nat) (v : Byte) (ports : Vector Byte 9) :
    ({ s with ports := ports } : State).writePort p v =
      { s.writePort p v with ports := (({ s with ports := ports } : State).writePort p v).ports } := by
  rw [State.writePort_frame, s.writePort_frame]

/-- OUT does the same to the rest of the state, whatever the port array holds. -/
theorem State.ioOut_with_ports (s : State) (p v : Byte) (ports : Vector Byte 9) :
    ({ s with ports := ports } : State).ioOut p v =
      { s.ioOut p v with ports := (({ s with ports := ports } : State).ioOut p v).ports } := by
  unfold State.ioOut
  split
  · rfl
  · split
    · rfl
    · split
      · rfl
      · exact s.writePort_with_ports p.toNat v ports

/-- An instruction that changes an entry is OUT to that entry's port. -/
theorem exec_writes_entry {i : Instr} {s t : State} {k : Nat} (hk : k < 9) (h : exec i s = .next t)
    (hne : t.ports[k] ≠ s.ports[k]) : i = .out (BitVec.ofNat 8 k) ∧ (k < 2 ∨ 5 < k) := by
  by_cases hout : ∃ p, i = .out p
  · obtain ⟨p, rfl⟩ := hout
    cases h
    rw [State.ioOut_ports s p s.a hk] at hne
    obtain ⟨rfl, harray⟩ : p.toNat = k ∧ (k < 2 ∨ 5 < k) := by
      exact Decidable.byContradiction fun hkept => hne (if_neg hkept)
    exact ⟨by rw [BitVec.ofNat_toNat, BitVec.setWidth_eq], harray⟩
  · have hports := exec_ports_of_ne_out (fun p hp => hout ⟨p, hp⟩) h
    exact absurd (by rw [hports]) hne

/-- Run on another port array that agrees in entries 1 and 2, an instruction differs in the port array alone, and agrees
in entries 1 and 2 again. -/
theorem exec_reads_two_entries {i : Instr} {s t : State} {ports : Vector Byte 9} (h1 : ports[1] = s.ports[1])
    (h2 : ports[2] = s.ports[2]) (h : exec i s = .next t) :
    ∃ q : Vector Byte 9, exec i { s with ports := ports } = .next { t with ports := q } ∧
      q[1] = t.ports[1] ∧ q[2] = t.ports[2] := by
  by_cases hout : ∃ p, i = .out p
  · obtain ⟨p, rfl⟩ := hout
    cases h
    refine ⟨_, congrArg Host.Outcome.next (s.ioOut_with_ports p s.a ports), ?_, ?_⟩
    · rw [State.ioOut_ports, State.ioOut_ports, h1]
    · rw [State.ioOut_ports, State.ioOut_ports, h2]
  · have hother (p : Byte) : i ≠ .out p := fun hp => hout ⟨p, hp⟩
    rw [exec_ports_of_ne_out hother h]
    exact ⟨ports, exec_with_ports h1 h2 hother h, h1, h2⟩

/-- Settles O47: OUT writes its own entry, IN reads two, and the host's assignment reaches all nine. -/
theorem corePortAccess : Obligations.CorePortAccess := by
  refine ⟨fun i s t k hk h hne => ?_, fun i s t ports h1 h2 h => exec_reads_two_entries h1 h2 h, fun s k v hk => ?_,
    State.reset_ports⟩
  · obtain ⟨hi, harray⟩ := exec_writes_entry hk h hne
    refine ⟨hi, ?_⟩
    simp only [List.mem_cons, List.not_mem_nil, or_false]
    omega
  · obtain ⟨⟨t, ht, -, hentry, -⟩, -, -⟩ := hostPortWrites s k hk v
    exact ⟨t, ht, hentry⟩

end Sys2Proof.Machine

/-! PROOFS of the statements on interrupts and the host's interface (spec/60_exceptions.md): the return from an
interrupt (O49), and what is refused (O51). -/

namespace Sys2Proof.Machine

/-- Settles O49: entry pushes PC and leaves SP at it, so RET takes both back, and IE stays clear. -/
theorem interruptThenReturnResumes : Obligations.InterruptThenReturnResumes := by
  intro s v hv hie hf
  obtain ⟨-, -, -, hkeep⟩ := pushed_enterInterrupt s v
  have hpc : (s.enterInterrupt v).readWord (s.enterInterrupt v).sp = s.pc := s.readWord_push16 s.pc
  have hsp : (s.enterInterrupt v).sp + 2#16 = s.sp := BitVec.sub_add_cancel s.sp 2#16
  have hret : exec .ret (s.enterInterrupt v) = .next { s with ie := false, mem := (s.enterInterrupt v).mem } := by
    rw [exec_ret, State.returnFromStack_eq, hpc, hsp]
    simp
  exact ⟨_, _, injectInterrupt_of_accepts hv hie hf, hret, rfl, fun x hhi hlo =>
    (State.readByte_congr rfl x).trans (hkeep x hhi hlo)⟩

/-! ### Outside the interface -/

/-- A bit of a byte as a digit of its number. -/
theorem getLsbD_eq_decide (v : Byte) (k : Nat) : v.getLsbD k = decide (v.toNat / 2 ^ k % 2 = 1) :=
  Nat.testBit_eq_decide_div_mod_eq

/-- A vector has the bits of 0xC7 clear, so it is a multiple of 8 below 64 (60_exceptions.md R247). -/
theorem toNat_of_vectorOk {v : Byte} (hv : vectorOk v = true) : v.toNat % 8 = 0 ∧ v.toNat < 64 := by
  have hmask : v &&& 0xC7#8 = 0x00#8 := by simpa [vectorOk] using hv
  have hbit (k : Nat) (hk : (0xC7#8).getLsbD k = true) : ¬ v.toNat / 2 ^ k % 2 = 1 := by
    have hclear : (v &&& 0xC7#8).getLsbD k = false := by rw [hmask, BitVec.getLsbD_zero]
    rw [BitVec.getLsbD_and, hk, Bool.and_true, getLsbD_eq_decide] at hclear
    exact of_decide_eq_false hclear
  have h0 := hbit 0 (by decide)
  have h1 := hbit 1 (by decide)
  have h2 := hbit 2 (by decide)
  have h6 := hbit 6 (by decide)
  have h7 := hbit 7 (by decide)
  have := v.isLt
  omega

/-- Settles O51: each argument is outside the domain its move checks. -/
theorem outsideInterfaceIsRefused : Obligations.OutsideInterfaceIsRefused := by
  refine fun s => ⟨fun v hv => ?_, fun i v hi => ?_, fun rom hrom => ?_⟩
  · have hbad : ¬ vectorOk v = true := fun hok => by
      have := toNat_of_vectorOk hok
      omega
    rw [injectInterrupt, if_neg hbad]
  · have hbad : ¬ portIndexOk i = true := by
      rw [portIndexOk_iff]
      omega
    rw [setInputPort, orInputBit, clearInputBit, if_neg hbad, if_neg hbad, if_neg hbad]
    exact ⟨rfl, rfl, rfl⟩
  · have hbad : ¬ romLengthOk rom.length = true := by
      rw [romLengthOk, decide_eq_true_iff]
      exact Nat.not_le.mpr hrom
    rw [boot, loadRom, if_neg hbad]

end Sys2Proof.Machine

/-! PROOFS of the whole-machine rules: every instruction completes (O53), the tables of the flag and memory writers
(O55, O57), and the invariant (O58, O59). -/

namespace Sys2Proof.Machine

theorem exec_faulted {i : Instr} {s t : State} (h : exec i s = .next t) : t.faulted = s.faulted := by
  rw [exec_frame h]

theorem exec_schedule {i : Instr} {s t : State} (h : exec i s = .next t) : t.schedule = s.schedule := by
  rw [exec_frame h]

/-- Settles O53: the frame of an instruction has neither the fault status nor the schedule in it. -/
theorem everyInstructionCompletes : Obligations.EveryInstructionCompletes := by
  intro i s
  obtain ⟨t, h⟩ := exec_next i s
  exact ⟨t, h, exec_faulted h, exec_schedule h⟩

/-! ### The flag table and the access table -/

/-- The flags after an instruction: each as before, but under its writers (10_state.md R31). -/
theorem exec_flags {i : Instr} {s t : State} (h : exec i s = .next t) :
    t.flags = {
      z := bif writesZsp i then t.flags.z else s.flags.z
      s := bif writesZsp i then t.flags.s else s.flags.s
      p := bif writesZsp i then t.flags.p else s.flags.p
      cy := bif writesCy i then t.flags.cy else s.flags.cy
      ac := bif writesAc i then t.flags.ac else s.flags.ac } := by
  cases i
  case jnz adr | jz adr | jnc adr | jc adr => cases h; rw [State.jumpIf_eq]; rfl
  case rnz | rz => cases h; rw [State.returnIf_eq]; split <;> rfl
  case out port => cases h; rw [State.ioOut_frame]; rfl
  all_goals cases h; rfl

/-- Settles O55: each column of the flag table is one field of the flags after the instruction. -/
theorem flagWriters : Obligations.FlagWriters := by
  intro i s t h
  have hflags := exec_flags h
  refine ⟨fun hw => ⟨?_, ?_, ?_⟩, fun hw => ?_, fun hw => ?_⟩ <;> rw [hflags] <;> simp only [hw, cond_false]

/-- A push touches the two bytes below SP alone. -/
theorem State.readByte_push16_of_not_mem (s : State) {x : Word} (w : Word) (hx : x ∉ [s.sp - 1#16, s.sp - 2#16]) :
    (s.push16 w).readByte x = s.readByte x := by
  obtain ⟨-, -, -, hkeep⟩ := s.pushed_push16 w
  simp only [List.mem_cons, List.not_mem_nil, or_false, not_or] at hx
  exact hkeep x hx.1 hx.2

theorem State.readByte_writeByte_of_not_mem (s : State) {addr x : Word} (v : Byte) (hx : x ∉ [addr]) :
    (s.writeByte addr v).readByte x = s.readByte x :=
  s.readByte_writeByte_of_ne v (List.ne_of_not_mem_cons hx)

/-- Settles O57: the stores and the pushes write at the addresses of the table, and no other instruction writes. -/
theorem memoryWriters : Obligations.MemoryWriters := by
  intro i s t x h hx
  cases i
  case sta adr => cases h; exact s.readByte_writeByte_of_not_mem s.a hx
  case mviM d8 => cases h; exact s.readByte_writeByte_of_not_mem d8 hx
  case movMA => cases h; exact s.readByte_writeByte_of_not_mem s.a hx
  case call adr => cases h; exact s.readByte_push16_of_not_mem s.pc hx
  case pushB => cases h; exact s.readByte_push16_of_not_mem s.bc hx
  case pushD => cases h; exact s.readByte_push16_of_not_mem s.de hx
  case pushH => cases h; exact s.readByte_push16_of_not_mem s.hl hx
  case pushPSW => cases h; exact s.readByte_push16_of_not_mem s.psw hx
  case jnz adr | jz adr | jnc adr | jc adr => cases h; rw [State.jumpIf_eq]; rfl
  case rnz | rz => cases h; rw [State.returnIf_eq]; split <;> rfl
  case out port => cases h; rw [State.ioOut_frame]; rfl
  all_goals cases h; rfl

/-! ### The invariant -/

/-- The invariant speaks of memory, the fault status and the sound trace alone. -/
theorem inv_of_eq {s t : State} (hs : Inv s) (hmem : t.mem = s.mem) (hf : t.faulted = s.faulted)
    (hsound : t.sound = s.sound) : Inv t := by
  rw [Inv, hmem, hf, hsound]
  exact hs

/-- Every instruction keeps the invariant: it stores inside the memory, and records events of ports 3 and 5 alone. -/
theorem inv_of_exec {i : Instr} {s t : State} (hs : Inv s) (h : exec i s = .next t) : Inv t := by
  obtain ⟨hwf, hf, hsound⟩ := hs
  refine ⟨?_, (exec_faulted h).trans hf, fun ev hev => ?_⟩
  · rcases exec_mem_cases h with hm | ⟨a, v, hm⟩ | ⟨w, hm⟩ <;> rw [hm]
    · exact hwf
    · exact State.wf_writeByte a v hwf
    · exact State.wf_push16 w hwf
  · rcases exec_sound_cases h with hkept | ⟨p, -, hp, hadded⟩
    · exact hsound ev (hkept ▸ hev)
    · rw [hadded, List.mem_append, List.mem_singleton] at hev
      rcases hev with hev | rfl
      · exact hsound ev hev
      · exact hp

/-- Every move of the host keeps the invariant: it pushes PC, or writes the port array. -/
theorem inv_of_hostMove {m : HostMove} {s t : State} (hs : Inv s) (h : hostMove m s = .next t) : Inv t := by
  rcases hostMove_cases h with ⟨v, -, -, -, rfl⟩ | rfl | ⟨p, v, -, rfl⟩
  · obtain ⟨hwf, hf, hsound⟩ := hs
    exact ⟨State.wf_enterInterrupt v hwf, hf, hsound⟩
  · exact hs
  · rw [State.writePort_frame]
    exact inv_of_eq hs rfl rfl rfl

theorem inv_of_fetchInstr {s s2 : State} {i : Instr} (hs : Inv s) (h : s.fetchInstr = .ok (i, s2)) : Inv s2 := by
  rw [State.fetchInstr_frame h]
  exact inv_of_eq hs rfl rfl rfl

/-- Settles O58: taking the turn off the schedule, the fetch, the instruction and the host's move each keep it. -/
theorem stepKeepsInvariant : Obligations.StepKeepsInvariant := by
  intro s t hs h
  have hturn : Inv s.nextTurn.2 := by
    rw [State.nextTurn_state]
    exact inv_of_eq hs rfl rfl rfl
  obtain ⟨-, ⟨-, i, s2, hfetch, hexec⟩ | ⟨m, -, hmove⟩⟩ := step_cases h
  · exact inv_of_exec (inv_of_fetchInstr hturn hfetch) hexec
  · exact inv_of_hostMove hturn hmove

theorem inv_reset : Inv State.reset :=
  ⟨Memory.wf_nil, rfl, fun _ hev => absurd hev List.not_mem_nil⟩

/-- Settles O59: a ROM load that is accepted ends inside the memory. -/
theorem resetMeetsInvariant : Obligations.ResetMeetsInvariant := by
  refine ⟨inv_reset, fun rom t h => ?_⟩
  obtain ⟨hlength, rfl⟩ := loadRom_next h
  obtain ⟨hwf, hf, hsound⟩ := inv_reset
  exact ⟨Memory.wf_writeList rom hwf (by omega), hf, hsound⟩

end Sys2Proof.Machine
